-- ==== Sys2Proof/Word.lean ====
section
/-! DEFINITION. The word types of the MDS-2256 and the numbers that name its slots, lines, inputs and groups. -/

namespace Sys2Proof

/-- One byte of a record in memory (R165). -/
abbrev Byte := BitVec 8

/-- Device time and every time derived from it: an unsigned 64-bit count of ticks (R3). -/
abbrev Time := BitVec 64

/-- A slot of the slot table, 0 to 255 (spec/00_scope.md, 3.3). -/
abbrev SlotNumber := Fin 256

/-- An output line, OUT0 to OUT15. -/
abbrev LineNumber := Fin 16

/-- An input line, IN0 to IN7. -/
abbrev InputNumber := Fin 8

/-- A group, 0 to 15. -/
abbrev GroupNumber := Fin 16

/-- The 64 bytes of a configuration block or of a request record, lowest address first. -/
abbrev Image64 := Vector Byte 64

/-- The 32 bytes of a completion record, lowest address first. -/
abbrev Image32 := Vector Byte 32

end Sys2Proof
end

