-- ==== Sys2Proof/Syntax.lean ====
section
/-! DEFINITION. The records that cross between host and device (spec/11_record_and_register_layouts.md) and the commands of
the block, one constructor of `Instr` for each row of spec/opcode_table.json. -/

namespace Sys2Proof

/-- The request record of 11.3 less its kind byte, field by field in the order of the offsets. -/
structure Request where
  mode          : Byte
  flags         : BitVec 16
  requestId     : BitVec 16
  slot          : BitVec 16
  timeValue     : BitVec 64
  period        : BitVec 32
  /-- Offset 20: guard grace, or edge timeout. -/
  grace         : BitVec 32
  /-- Offset 24: after-edge delay, or renew window. -/
  delay         : BitVec 32
  pulseWidth    : BitVec 32
  limit         : BitVec 16
  expectedGen   : BitVec 16
  groupMask     : BitVec 16
  group         : Byte
  outputLine    : Byte
  actionKind    : Byte
  inputLine     : Byte
  edgeSelect    : Byte
  reportPolicy  : Byte
  latePolicy    : Byte
  filterLength  : Byte
  tripLevel     : Byte
  /-- Offset 47, reserved. -/
  reserved47    : Byte
  tag           : BitVec 64
  /-- Offsets 56 to 63, reserved. -/
  reserved56    : BitVec 64
  deriving DecidableEq, Repr

/-- A whole request record: its kind byte and the rest. -/
structure Record where
  kind : Byte
  body : Request
  deriving DecidableEq, Repr

/-- The configuration block of 11.2, field by field. -/
structure ConfigBlock where
  format          : BitVec 16
  submissionLog2  : Byte
  completionLog2  : Byte
  divider         : BitVec 32
  submissionBase  : BitVec 64
  completionBase  : BitVec 64
  enableMask      : BitVec 16
  defaultMask     : BitVec 16
  safeMask        : BitVec 16
  participateMask : BitVec 16
  threshold       : Byte
  options         : Byte
  moderation      : BitVec 16
  /-- Offsets 36 to 63, reserved. -/
  reserved        : Vector Byte 28
  deriving DecidableEq, Repr

/-- A completion record of 11.4 as raw fields: a response (type 1) or a report (type 2). -/
structure CompletionRecord where
  type           : Byte
  /-- Status code of a response, event code of a report. -/
  code           : Byte
  flags          : BitVec 16
  sequence       : BitVec 32
  /-- Value A of a response, tag of a report. -/
  first          : BitVec 64
  /-- Value B of a response, event time of a report. -/
  second         : BitVec 64
  /-- Slot of a response (0xFFFF when none is named), source number of a report. -/
  source         : BitVec 16
  generation     : BitVec 16
  /-- Request id of a response, count of a report. -/
  idOrCount      : BitVec 16
  submissionHead : BitVec 16
  deriving DecidableEq, Repr

/-- The registers that REGISTER_WRITE writes. -/
inductive PlainRegister
  | configLo | configHi | intEnable | status
  deriving DecidableEq, Repr

/-- Which bus access a bus event ends: the one the block is waiting for, or one it has discarded or abandoned
(R127, R129; log 10). -/
inductive Access
  | own | abandoned
  deriving DecidableEq, Repr

/-- How much of an edge one EDGE takes. An edge goes to the slots one after another and to the trip-level status; R77 orders
neither party before the other, and R82 lets other claims come between two offers, so an edge may be taken by one EDGE or
by several (log 7). -/
inductive EdgeShare
  /-- All that is left of the edge, the slots before the trip-level status. -/
  | slotsFirst
  /-- All that is left of the edge, the trip-level status before the slots. -/
  | statusFirst
  /-- The offers still to be made to the slots below a bound; with bound 0 the acceptance alone. -/
  | offersBelow (bound : Fin 257)
  /-- The trip-level status alone. -/
  | status
  deriving DecidableEq, Repr

/-- The commands of the block, one for each row of spec/opcode_table.json. -/
inductive Instr
  | powerOnReset
  /-- The pins as sampled at the tick, bit n for INn. -/
  | tick (pins : BitVec 8)
  | start
  | pause
  | resume
  | reset
  | statusRead
  | submitTailWrite (value : BitVec 32)
  | completeHeadWrite (value : BitVec 32)
  | intCauseWrite (value : BitVec 32)
  | registerWrite (register : PlainRegister) (value : BitVec 32)
  | configReadError (access : Access)
  | configBlockArrives (access : Access) (data : Image64)
  | configApply
  | fetchIssue
  | fetchDataArrives (access : Access) (data : Image64)
  | fetchReadError (access : Access)
  | nop (request : Request)
  | fence (request : Request)
  | arm (request : Request)
  | cancel (request : Request)
  | cancelGroup (request : Request)
  | stage (request : Request)
  | renew (request : Request)
  | hold (request : Request)
  | release (request : Request)
  | querySlot (request : Request)
  | line (request : Request)
  | configInput (request : Request)
  | readTime (request : Request)
  | stepTime (request : Request)
  | setTime (request : Request)
  | clearTrip (request : Request)
  | forceTrip (request : Request)
  | onceExpiry (slot : SlotNumber)
  | repeatExpiry (slot : SlotNumber)
  | guardWarn (slot : SlotNumber)
  | guardFault (slot : SlotNumber)
  | afterEdgeExpiry (slot : SlotNumber)
  | timeout (slot : SlotNumber)
  | pulseEnd (line : LineNumber)
  | edge (input : InputNumber) (share : EdgeShare)
  | completionWriteIssue
  | reportWriteAck (access : Access)
  | responseWriteAck (access : Access)
  | completionWriteError (access : Access)
  | moderationDelayExpiry
  | controlWriteUnassignedCode (value : BitVec 32)
  deriving DecidableEq, Repr

end Sys2Proof
end

