-- ==== Sys2Proof/WellFormed.lean ====
section
/-! DEFINITION. Which commands are well formed. The operand types carry every range but one: a write to CONTROL of an
unassigned code does not carry one of the four assigned codes. -/

namespace Sys2Proof

/-- A value of CONTROL that names no command: 0, or 5 and above (R118). -/
def unassignedCode (value : BitVec 32) : Bool :=
  value == 0 || decide (5 ≤ value.toNat)

/-- The command is one the table's row describes. -/
def Instr.wellFormed : Instr → Bool
  | .powerOnReset => true
  | .tick _ => true
  | .start => true
  | .pause => true
  | .resume => true
  | .reset => true
  | .statusRead => true
  | .submitTailWrite _ => true
  | .completeHeadWrite _ => true
  | .intCauseWrite _ => true
  | .registerWrite _ _ => true
  | .configReadError _ => true
  | .configBlockArrives _ _ => true
  | .configApply => true
  | .fetchIssue => true
  | .fetchDataArrives _ _ => true
  | .fetchReadError _ => true
  | .nop _ => true
  | .fence _ => true
  | .arm _ => true
  | .cancel _ => true
  | .cancelGroup _ => true
  | .stage _ => true
  | .renew _ => true
  | .hold _ => true
  | .release _ => true
  | .querySlot _ => true
  | .line _ => true
  | .configInput _ => true
  | .readTime _ => true
  | .stepTime _ => true
  | .setTime _ => true
  | .clearTrip _ => true
  | .forceTrip _ => true
  | .onceExpiry _ => true
  | .repeatExpiry _ => true
  | .guardWarn _ => true
  | .guardFault _ => true
  | .afterEdgeExpiry _ => true
  | .timeout _ => true
  | .pulseEnd _ => true
  | .edge _ _ => true
  | .completionWriteIssue => true
  | .reportWriteAck _ => true
  | .responseWriteAck _ => true
  | .completionWriteError _ => true
  | .moderationDelayExpiry => true
  | .controlWriteUnassignedCode value => unassignedCode value

end Sys2Proof
end

