-- ==== Sys2Proof/Decode.lean ====
section
/-! DEFINITION. The byte layouts of spec/11_record_and_register_layouts.md, read and written, and the host's
`decodeTableWord`: opcode_table.json gives no row any bits, so no word spells a command. -/

namespace Sys2Proof

/-- opcode_table.json gives bits to no row (log 31). -/
def decodeTableWord (_nbits _w : Nat) : Option Instr := none

/-- A little-endian 16-bit field at an offset of a record (R165). -/
def read16 {n : Nat} (m : Vector Byte n) (o : Nat) (h : o + 1 < n := by decide) : BitVec 16 :=
  m[o + 1] ++ m[o]

/-- A little-endian 32-bit field (R165). -/
def read32 {n : Nat} (m : Vector Byte n) (o : Nat) (h : o + 3 < n := by decide) : BitVec 32 :=
  m[o + 3] ++ m[o + 2] ++ m[o + 1] ++ m[o]

/-- A little-endian 64-bit field (R165). -/
def read64 {n : Nat} (m : Vector Byte n) (o : Nat) (h : o + 7 < n := by decide) : BitVec 64 :=
  m[o + 7] ++ m[o + 6] ++ m[o + 5] ++ m[o + 4] ++ m[o + 3] ++ m[o + 2] ++ m[o + 1] ++ m[o]

/-- Byte `i` of a field, counted from the least significant. -/
def byteOf {w : Nat} (x : BitVec w) (i : Nat) : Byte := x.extractLsb' (8 * i) 8

/-- The request record of 11.3 from its 64 bytes. -/
def decodeRecord (m : Image64) : Record where
  kind := m[0]
  body :=
    { mode := m[1]
      flags := read16 m 2
      requestId := read16 m 4
      slot := read16 m 6
      timeValue := read64 m 8
      period := read32 m 16
      grace := read32 m 20
      delay := read32 m 24
      pulseWidth := read32 m 28
      limit := read16 m 32
      expectedGen := read16 m 34
      groupMask := read16 m 36
      group := m[38]
      outputLine := m[39]
      actionKind := m[40]
      inputLine := m[41]
      edgeSelect := m[42]
      reportPolicy := m[43]
      latePolicy := m[44]
      filterLength := m[45]
      tripLevel := m[46]
      reserved47 := m[47]
      tag := read64 m 48
      reserved56 := read64 m 56 }

/-- The 64 bytes of a request record (11.3). -/
def encodeRecord (r : Record) : Image64 :=
  let b := r.body
  #v[r.kind, b.mode,
    byteOf b.flags 0, byteOf b.flags 1,
    byteOf b.requestId 0, byteOf b.requestId 1,
    byteOf b.slot 0, byteOf b.slot 1,
    byteOf b.timeValue 0, byteOf b.timeValue 1, byteOf b.timeValue 2, byteOf b.timeValue 3,
    byteOf b.timeValue 4, byteOf b.timeValue 5, byteOf b.timeValue 6, byteOf b.timeValue 7,
    byteOf b.period 0, byteOf b.period 1, byteOf b.period 2, byteOf b.period 3,
    byteOf b.grace 0, byteOf b.grace 1, byteOf b.grace 2, byteOf b.grace 3,
    byteOf b.delay 0, byteOf b.delay 1, byteOf b.delay 2, byteOf b.delay 3,
    byteOf b.pulseWidth 0, byteOf b.pulseWidth 1, byteOf b.pulseWidth 2, byteOf b.pulseWidth 3,
    byteOf b.limit 0, byteOf b.limit 1,
    byteOf b.expectedGen 0, byteOf b.expectedGen 1,
    byteOf b.groupMask 0, byteOf b.groupMask 1,
    b.group, b.outputLine, b.actionKind, b.inputLine, b.edgeSelect,
    b.reportPolicy, b.latePolicy, b.filterLength, b.tripLevel, b.reserved47,
    byteOf b.tag 0, byteOf b.tag 1, byteOf b.tag 2, byteOf b.tag 3,
    byteOf b.tag 4, byteOf b.tag 5, byteOf b.tag 6, byteOf b.tag 7,
    byteOf b.reserved56 0, byteOf b.reserved56 1, byteOf b.reserved56 2, byteOf b.reserved56 3,
    byteOf b.reserved56 4, byteOf b.reserved56 5, byteOf b.reserved56 6, byteOf b.reserved56 7]

/-- The configuration block of 11.2 from its 64 bytes. -/
def decodeBlock (m : Image64) : ConfigBlock where
  format := read16 m 0
  submissionLog2 := m[2]
  completionLog2 := m[3]
  divider := read32 m 4
  submissionBase := read64 m 8
  completionBase := read64 m 16
  enableMask := read16 m 24
  defaultMask := read16 m 26
  safeMask := read16 m 28
  participateMask := read16 m 30
  threshold := m[32]
  options := m[33]
  moderation := read16 m 34
  reserved := Vector.ofFn fun i : Fin 28 => m[36 + i.val]

/-- The 64 bytes of a configuration block (11.2). -/
def encodeBlock (b : ConfigBlock) : Image64 :=
  (#v[byteOf b.format 0, byteOf b.format 1, b.submissionLog2, b.completionLog2,
    byteOf b.divider 0, byteOf b.divider 1, byteOf b.divider 2, byteOf b.divider 3,
    byteOf b.submissionBase 0, byteOf b.submissionBase 1, byteOf b.submissionBase 2, byteOf b.submissionBase 3,
    byteOf b.submissionBase 4, byteOf b.submissionBase 5, byteOf b.submissionBase 6, byteOf b.submissionBase 7,
    byteOf b.completionBase 0, byteOf b.completionBase 1, byteOf b.completionBase 2, byteOf b.completionBase 3,
    byteOf b.completionBase 4, byteOf b.completionBase 5, byteOf b.completionBase 6, byteOf b.completionBase 7,
    byteOf b.enableMask 0, byteOf b.enableMask 1,
    byteOf b.defaultMask 0, byteOf b.defaultMask 1,
    byteOf b.safeMask 0, byteOf b.safeMask 1,
    byteOf b.participateMask 0, byteOf b.participateMask 1,
    b.threshold, b.options,
    byteOf b.moderation 0, byteOf b.moderation 1] : Vector Byte 36) ++ b.reserved

/-- The completion record of 11.4 from its 32 bytes, as the host reads it. -/
def decodeCompletion (m : Image32) : CompletionRecord where
  type := m[0]
  code := m[1]
  flags := read16 m 2
  sequence := read32 m 4
  first := read64 m 8
  second := read64 m 16
  source := read16 m 24
  generation := read16 m 26
  idOrCount := read16 m 28
  submissionHead := read16 m 30

/-- The 32 bytes of a completion record, every byte written (R165, R166). -/
def encodeCompletion (r : CompletionRecord) : Image32 :=
  #v[r.type, r.code, byteOf r.flags 0, byteOf r.flags 1,
    byteOf r.sequence 0, byteOf r.sequence 1, byteOf r.sequence 2, byteOf r.sequence 3,
    byteOf r.first 0, byteOf r.first 1, byteOf r.first 2, byteOf r.first 3,
    byteOf r.first 4, byteOf r.first 5, byteOf r.first 6, byteOf r.first 7,
    byteOf r.second 0, byteOf r.second 1, byteOf r.second 2, byteOf r.second 3,
    byteOf r.second 4, byteOf r.second 5, byteOf r.second 6, byteOf r.second 7,
    byteOf r.source 0, byteOf r.source 1,
    byteOf r.generation 0, byteOf r.generation 1,
    byteOf r.idOrCount 0, byteOf r.idOrCount 1,
    byteOf r.submissionHead 0, byteOf r.submissionHead 1]

/-- The checks of R121 on a configuration block that has arrived whole. -/
def ConfigBlock.valid (b : ConfigBlock) : Bool :=
  b.format == 1
    && decide (4 ≤ b.submissionLog2.toNat ∧ b.submissionLog2.toNat ≤ 12)
    && decide (4 ≤ b.completionLog2.toNat ∧ b.completionLog2.toNat ≤ 12)
    && decide (1 ≤ b.divider.toNat ∧ b.divider.toNat ≤ 65536)
    && decide (b.submissionBase.toNat % 64 = 0)
    && decide (b.completionBase.toNat % 32 = 0)
    && b.threshold != 0
    && b.reserved.all (· == 0)

end Sys2Proof
end

