-- ==== Sys2Proof/Machine/State.lean ====
section
/-! DEFINITION. The state of the MDS-2256, block by block (spec/00_scope.md, 1.1), and the state after power-on reset.
A level is a `Bool`, `true` for 1. A field that the spec calls optional is an `Option`. -/

namespace Sys2Proof.Machine

/-! ## Time base (spec/01_device_time.md) -/

/-- Whether ticks advance device time (01, 1.2). -/
inductive CountingState
  | stopped | counting | ended
  deriving DecidableEq, Repr

/-- The time base. `divider` is the tick divider in force, `tickLength` the length in REFCLK periods of the tick in
progress, which a load leaves as it began (R2), `phase` the periods completed in it (R1). -/
structure TimeBase where
  divider    : Nat
  tickLength : Nat
  phase      : Nat
  now        : Time
  counting   : CountingState
  deriving DecidableEq, Repr

/-! ## Slot table (spec/02_timer_slots.md) -/

/-- Whether a time step keeps or moves a slot's deadline (R20). -/
inductive Anchoring
  | abs | rel
  deriving DecidableEq, Repr

/-- What a REPEAT slot does after a late expiry (R58, R59). -/
inductive LatePolicy
  | onGrid | restart
  deriving DecidableEq, Repr

/-- Which events make a report pending (R21). -/
inductive ReportPolicy
  | every | final | none
  deriving DecidableEq, Repr

/-- The five actions on an output line; a pulse carries its width in ticks (R64). -/
inductive ActionKind
  | set | clear | toggle
  | pulseHigh (width : BitVec 32)
  | pulseLow (width : BitVec 32)
  deriving DecidableEq, Repr

/-- An action and the line it names. -/
structure Action where
  line : LineNumber
  kind : ActionKind
  deriving DecidableEq, Repr

/-- The action part of a staged change: a new action, or the removal of the action (R34). -/
inductive StagedAction
  | replace (action : Action)
  | remove
  deriving DecidableEq, Repr

/-- A staged change: the parts the STAGE named (R34). -/
structure StagedChange where
  period : Option (BitVec 32)
  action : Option StagedAction
  limit  : Option (BitVec 16)
  deriving DecidableEq, Repr

/-- The stage of a guard (06, 6.1). -/
inductive GuardStage
  | normal | warned
  deriving DecidableEq, Repr

/-- Which edges a WAIT_EDGE slot takes (R82). -/
inductive EdgeSelect
  | rise | fall | any
  deriving DecidableEq, Repr

/-- What a REPEAT slot holds beyond the common fields. A limit of 0 is unbounded (R57). -/
structure RepeatPart where
  period     : BitVec 32
  limit      : BitVec 16
  latePolicy : LatePolicy
  staged     : Option StagedChange
  deriving DecidableEq, Repr

/-- What a GUARD slot holds beyond the common fields (06, 6.1). -/
structure GuardPart where
  period      : BitVec 32
  stage       : GuardStage
  grace       : BitVec 32
  window      : BitVec 32
  lastRenew   : Time
  tripOnFault : Bool
  deriving DecidableEq, Repr

/-- What a WAIT_EDGE slot holds beyond the common fields (05, 5.5; R83). -/
structure EdgePart where
  input       : InputNumber
  select      : EdgeSelect
  timeout     : Option (BitVec 32)
  delay       : Option (BitVec 32)
  lastCapture : Option Time
  limit       : BitVec 16
  deriving DecidableEq, Repr

/-- The mode of an arming with the fields present in that mode. -/
inductive ModePart
  | once
  | repeating (part : RepeatPart)
  | guard (part : GuardPart)
  | waitEdge (part : EdgePart)
  deriving DecidableEq, Repr

/-- The state a HELD slot returns to at its release (R36, R38). -/
inductive HeldFrom
  | armed | waiting
  deriving DecidableEq, Repr

/-- The state of a slot that is not IDLE, with the time that state holds (R18). -/
inductive Phase
  | armed (deadline : Time)
  | waiting (timeoutDeadline : Option Time)
  | held (origin : HeldFrom) (remaining : Option (BitVec 64))
  deriving DecidableEq, Repr

/-- An arming: what a slot holds while it is not IDLE (02, 2.1). -/
structure Arming where
  anchoring : Anchoring
  action    : Option Action
  policy    : ReportPolicy
  group     : GroupNumber
  tag       : BitVec 64
  part      : ModePart
  phase     : Phase
  deriving DecidableEq, Repr

/-! ## Reports (spec/10_completion_ring_reports_and_interrupts.md, 10.2) -/

/-- What a report records (11.7). -/
inductive Event
  | expiry | capture | timeout | guardWarn | guardFault | trip
  deriving DecidableEq, Repr

/-- The flag set of report fields (10.2). -/
structure ReportFlags where
  late       : Bool := false
  overrun    : Bool := false
  suppressed : Bool := false
  dropped    : Bool := false
  final      : Bool := false
  cancelled  : Bool := false
  saturated  : Bool := false
  warned     : Bool := false
  early      : Bool := false
  deriving DecidableEq, Repr

/-- The report fields of a source (10.2). -/
structure ReportFields where
  event : Option Event
  time  : Time
  tag   : BitVec 64
  count : BitVec 16
  flags : ReportFlags
  deriving DecidableEq, Repr

/-- Empty report fields: no latest event, event time 0, tag 0, count 0, no flags (02, 2.1). -/
def ReportFields.empty : ReportFields :=
  { event := none, time := 0, tag := 0, count := 0, flags := {} }

/-- The report state of a source: NONE or PENDING (R21, R150). -/
inductive ReportState
  | none | pending
  deriving DecidableEq, Repr

/-- Report state and report fields of one source. -/
structure Report where
  state  : ReportState
  fields : ReportFields
  deriving DecidableEq, Repr

/-- Report state NONE and empty report fields. -/
def Report.empty : Report := { state := .none, fields := .empty }

/-- A source of reports: a slot, or the controller entry numbered 256 (R151, R152). -/
inductive Source
  | slot (number : SlotNumber)
  | controller
  deriving DecidableEq, Repr

/-- One record of the slot table. `arming` is absent exactly when the slot is IDLE (R18). -/
structure Slot where
  generation : BitVec 16
  arming     : Option Arming
  report     : Report
  deriving DecidableEq, Repr

/-- A slot after power-on reset (R22). -/
def Slot.reset : Slot := { generation := 0, arming := none, report := .empty }

/-- An entry of the group table (R23). -/
inductive GroupState
  | running | held
  deriving DecidableEq, Repr

/-! ## Output line unit (spec/04_output_lines.md) -/

/-- A pending pulse end (R64). -/
structure PulseEnd where
  time  : Time
  level : Bool
  deriving DecidableEq, Repr

/-- What an enabled line drives: its level, and its pending pulse end if a pulse is in progress. -/
structure Drive where
  level    : Bool
  pulseEnd : Option PulseEnd
  deriving DecidableEq, Repr

/-- The record of one output line. `drive` is present exactly when the line is enabled: R62 says that an enabled line
holds a level, that a line not enabled is undriven, and that a pulse end stands only on an enabled line (log 19). -/
structure OutputLine where
  drive        : Option Drive
  defaultLevel : Bool
  safeLevel    : Bool
  participates : Bool
  deriving DecidableEq, Repr

/-- An output line after power-on reset (R63). -/
def OutputLine.reset : OutputLine :=
  { drive := none, defaultLevel := false, safeLevel := false, participates := false }

/-! ## Input line unit (spec/05_input_lines_and_edge_waits.md) -/

/-- The level at which a line trips the device (R78). -/
inductive TripLevel
  | none | high | low
  deriving DecidableEq, Repr

/-- A filter candidate: a level and the number of ticks for which it has held (R76). -/
structure Candidate where
  level : Bool
  count : Nat
  deriving DecidableEq, Repr

/-- An edge that has been produced and not yet reached all its parties: its level and its edge time (R77), the slot whose
offer comes next (256 when all are made, R82), and whether the re-evaluation of the trip-level status is still to come
(R77). The model's own record of how far the edge has come (log 7). -/
structure EdgeUnderWay where
  level     : Bool
  time      : Time
  next      : Fin 257
  statusDue : Bool
  deriving DecidableEq, Repr

/-- The record of one input line (05, 5.1). `active` is the trip-level status. A candidate whose count has reached the
filter length waits for its acceptance, the EDGE command; `edge` is the edge it then produces, while offers of it or the
trip-level status are still to come (log 7). -/
structure InputLine where
  raw       : Option Bool
  qualified : Option Bool
  candidate : Option Candidate
  edge      : Option EdgeUnderWay
  filter    : BitVec 8
  tripLevel : TripLevel
  active    : Bool
  deriving DecidableEq, Repr

/-- An input line after power-on reset (R81). -/
def InputLine.reset : InputLine :=
  { raw := none, qualified := none, candidate := none, edge := none, filter := 0, tripLevel := .none, active := false }

/-! ## Trip unit (spec/07_trip.md) -/

/-- The trip state (07, 7.1). -/
inductive TripState
  | clear | tripped
  deriving DecidableEq, Repr

/-- The kind of the first cause (07, 7.1). -/
inductive CauseKind
  | none | input | guard | controllerFault | forced
  deriving DecidableEq, Repr

/-- The trip record (07, 7.1). -/
structure TripRecord where
  kind  : CauseKind
  index : BitVec 8
  time  : Time
  deriving DecidableEq, Repr

/-- The trip unit. Bit n of `inputCauses` is the input cause of INn. -/
structure TripUnit where
  state       : TripState
  inputCauses : BitVec 8
  guardCause  : Bool
  faultCause  : Bool
  forcedCause : Bool
  record      : TripRecord
  deriving DecidableEq, Repr

/-! ## Fetch unit and request engine (spec/09_submission_ring_and_request_engine.md) -/

/-- The fetch unit and the register SUBMIT_TAIL (R132). `inFlight` is the index the read in flight reads (R135);
`abandoned` counts discarded reads whose data or error has not come yet (R127, R129; log 10). -/
structure FetchUnit where
  base      : BitVec 64
  entries   : Nat
  head      : Nat
  tail      : Nat
  inFlight  : Option Nat
  abandoned : Nat
  deriving DecidableEq, Repr

/-- The status of a response (11.7). -/
inductive Status
  | ok | badKind | badField | badSlot | badLine | slotBusy | reportPending | notArmed | stale | wrongMode
  | timeRange | tripActive | lineTripped | earlyRenew
  deriving DecidableEq, Repr

/-- What the owning block answers (R138): status, values, the slot and generation it names, and the two flags. -/
structure Answer where
  status           : Status
  valueA           : BitVec 64
  valueB           : BitVec 64
  named            : Option SlotNumber
  generation       : BitVec 16
  reportWasPending : Bool
  wasClear         : Bool
  deriving DecidableEq, Repr

/-- What arbitration must know of a held response: whether it answers a FENCE that was taken (R161), or an ARM that was
accepted, and of which slot (R154). -/
inductive ResponseKind
  | ordinary
  | fence
  | acceptedArm (slot : SlotNumber)
  deriving DecidableEq, Repr

/-- The held response (R144, R145), less the sequence number, which it is given when its write is issued. -/
structure HeldResponse where
  kind           : ResponseKind
  answer         : Answer
  requestId      : BitVec 16
  submissionHead : BitVec 16
  deriving DecidableEq, Repr

/-! ## Completion writer (spec/10_completion_ring_reports_and_interrupts.md) -/

/-- The source of the write in flight; a report write carries the report fields its record was formed from (R156, R159). -/
inductive WriteSource
  | response
  | report (source : Source) (formed : ReportFields)
  deriving DecidableEq, Repr

/-- The write in flight. `reportsWaited` says whether the report queue was non-empty at the issue (R154); `eventNoted`
and `cancelNoted` are the notes of R156. -/
structure CompletionWrite where
  source        : WriteSource
  index         : Nat
  sequence      : BitVec 32
  address       : BitVec 64
  contents      : Image32
  reportsWaited : Bool
  eventNoted    : Bool
  cancelNoted   : Bool
  deriving DecidableEq, Repr

/-- The completion writer and the register COMPLETE_HEAD (10.1). `delayTimer` is absent when stopped; 0 ticks to run is
a timer that has run out and waits for MODERATION_DELAY_EXPIRY (log 14). -/
structure CompletionWriter where
  base            : BitVec 64
  entries         : Nat
  writeIndex      : Nat
  completeHead    : Nat
  nextSequence    : BitVec 32
  inFlight        : Option CompletionWrite
  abandoned       : Nat
  fairness        : Nat
  fenceMark       : Option Nat
  threshold       : BitVec 8
  delay           : BitVec 16
  moderationCount : Nat
  delayTimer      : Option Nat
  queue           : List Source
  controllerEntry : Report
  deriving DecidableEq, Repr

/-! ## Control block (spec/08_controller_states_and_the_register_window.md) -/

/-- The controller state (R116). -/
inductive ControllerState
  | halted | loading | running | pausing | paused | faulted
  deriving DecidableEq, Repr

/-- From which state LOADING was entered (08, 8.1). -/
inductive LoadOrigin
  | halted | faulted
  deriving DecidableEq, Repr

/-- The fault cause (R117). -/
inductive FaultCause
  | none | configRead | configBad | fetchRead | completionWrite
  deriving DecidableEq, Repr

/-- The control block and the registers of the window that no other block holds. `configRead` is the address of the
configuration read in progress, `heldBlock` a valid block that waits for a completion write to end (R119),
`readData` what the last STATUS read returned (log 12). -/
structure ControlBlock where
  state          : ControllerState
  origin         : Option LoadOrigin
  faultCause     : FaultCause
  tripOnFault    : Bool
  configLo       : BitVec 32
  configHi       : BitVec 32
  cmdIgnored     : Bool
  tailRange      : Bool
  headRange      : Bool
  intCause       : BitVec 3
  intEnable      : BitVec 3
  configRead     : Option (BitVec 64)
  heldBlock      : Option ConfigBlock
  abandonedReads : Nat
  readData       : BitVec 32
  deriving DecidableEq, Repr

/-! ## The whole device -/

/-- The state of the device. `freeCount` counts the free values drawn (log 16); `pending` is the queue of commands that
wait, first in, first out. -/
structure State where
  time                 : TimeBase
  slots                : Vector Slot 256
  groups               : Vector GroupState 16
  deadlineList         : List SlotNumber
  lines                : Vector OutputLine 16
  configurationPresent : Bool
  inputs               : Vector InputLine 8
  trip                 : TripUnit
  fetch                : FetchUnit
  held                 : Option HeldResponse
  writer               : CompletionWriter
  control              : ControlBlock
  freeCount            : Nat
  pending              : List Instr
  deriving DecidableEq, Repr

/-- The reasons a command could stop the block with a fault: none, since the spec gives every command an effect and
handles every failure of the memory link inside the machine (R127, R128; log 18). Safe: nothing raises one. -/
inductive Fault
  deriving DecidableEq, Repr

/-- The reasons a command is refused. -/
inductive Refusal
  /-- Raised by `exec` for a command without a meaning; no arm raises it. Safe: the block stops. -/
  | notModelled (mnemonic : String)
  deriving DecidableEq, Repr

/-- The time base after power-on reset (R6). -/
def TimeBase.reset : TimeBase :=
  { divider := 1, tickLength := 1, phase := 0, now := 0, counting := .stopped }

/-- The trip unit after power-on reset (R114). -/
def TripUnit.reset : TripUnit :=
  { state := .clear, inputCauses := 0, guardCause := false, faultCause := false, forcedCause := false,
    record := { kind := .none, index := 0, time := 0 } }

/-- The fetch unit after power-on reset (R132). -/
def FetchUnit.reset : FetchUnit :=
  { base := 0, entries := 16, head := 0, tail := 0, inFlight := none, abandoned := 0 }

/-- The completion writer after power-on reset (R162). -/
def CompletionWriter.reset : CompletionWriter :=
  { base := 0, entries := 16, writeIndex := 0, completeHead := 0, nextSequence := 1, inFlight := none, abandoned := 0,
    fairness := 0, fenceMark := none, threshold := 1, delay := 0, moderationCount := 0, delayTimer := none,
    queue := [], controllerEntry := .empty }

/-- The control block after power-on reset (R117). -/
def ControlBlock.reset : ControlBlock :=
  { state := .halted, origin := none, faultCause := .none, tripOnFault := false, configLo := 0, configHi := 0,
    cmdIgnored := false, tailRange := false, headRange := false, intCause := 0, intEnable := 0, configRead := none,
    heldBlock := none, abandonedReads := 0, readData := 0 }

/-- The device after power-on reset, with no command waiting (R6, R22, R23, R42, R63, R81, R114, R117, R132, R162). -/
def State.reset : State :=
  { time := .reset
    slots := Vector.replicate 256 .reset
    groups := Vector.replicate 16 .running
    deadlineList := []
    lines := Vector.replicate 16 .reset
    configurationPresent := false
    inputs := Vector.replicate 8 .reset
    trip := .reset
    fetch := .reset
    held := none
    writer := .reset
    control := .reset
    freeCount := 0
    pending := [] }

end Sys2Proof.Machine
end

