-- ==== Sys2Proof/Machine/Flags.lean ====
section
/-! DEFINITION. Flags, codes and register views: the request flags, the report flags, the code tables of 11.7, the packed
words of 11.5 and the register window of 11.6. -/

namespace Sys2Proof.Machine

/-! ## Request flags (11.3) -/

def startAt (r : Request) : Bool := r.flags.getLsbD 0
def anchorAbs (r : Request) : Bool := r.flags.getLsbD 1
def replaceFlag (r : Request) : Bool := r.flags.getLsbD 2
def matchGen (r : Request) : Bool := r.flags.getLsbD 3
def hasAction (r : Request) : Bool := r.flags.getLsbD 4
def guardTrip (r : Request) : Bool := r.flags.getLsbD 5
def stagePeriod (r : Request) : Bool := r.flags.getLsbD 6
def stageAction (r : Request) : Bool := r.flags.getLsbD 7
def stageLimit (r : Request) : Bool := r.flags.getLsbD 8
def hasTimeout (r : Request) : Bool := r.flags.getLsbD 9
def hasEdgeDelay (r : Request) : Bool := r.flags.getLsbD 10

/-! ## Report flags (11.4) -/

/-- The union of two flag sets (R150, R159). -/
def ReportFlags.union (f g : ReportFlags) : ReportFlags :=
  { late := f.late || g.late
    overrun := f.overrun || g.overrun
    suppressed := f.suppressed || g.suppressed
    dropped := f.dropped || g.dropped
    final := f.final || g.final
    cancelled := f.cancelled || g.cancelled
    saturated := f.saturated || g.saturated
    warned := f.warned || g.warned
    early := f.early || g.early }

/-- The flag set as the mask of a report (R166). -/
def ReportFlags.mask (f : ReportFlags) : BitVec 16 :=
  0#7 ++ BitVec.ofBool f.early ++ BitVec.ofBool f.warned ++ BitVec.ofBool f.saturated ++ BitVec.ofBool f.cancelled
    ++ BitVec.ofBool f.final ++ BitVec.ofBool f.dropped ++ BitVec.ofBool f.suppressed ++ BitVec.ofBool f.overrun
    ++ BitVec.ofBool f.late

/-- Whether an event with these flags makes the report pending under a policy (R21, R95). -/
def ReportPolicy.makesPending (policy : ReportPolicy) (event : Event) (flags : ReportFlags) : Bool :=
  match policy with
  | .every => true
  | .final => flags.final
  | .none => event == .guardWarn || event == .guardFault

/-! ## Code tables (11.7) -/

def Status.code : Status → BitVec 8
  | .ok => 0
  | .badKind => 1
  | .badField => 2
  | .badSlot => 3
  | .badLine => 4
  | .slotBusy => 5
  | .reportPending => 6
  | .notArmed => 7
  | .stale => 8
  | .wrongMode => 9
  | .timeRange => 10
  | .tripActive => 11
  | .lineTripped => 12
  | .earlyRenew => 13

def Event.code : Event → BitVec 8
  | .expiry => 1
  | .capture => 2
  | .timeout => 3
  | .guardWarn => 4
  | .guardFault => 5
  | .trip => 6

/-- The event code of report fields; 0 when there is no latest event. -/
def eventCode : Option Event → BitVec 8
  | none => 0
  | some e => e.code

def ModePart.code : ModePart → BitVec 8
  | .once => 1
  | .repeating _ => 2
  | .guard _ => 3
  | .waitEdge _ => 4

def Phase.code : Phase → BitVec 8
  | .armed _ => 1
  | .waiting _ => 2
  | .held _ _ => 3

/-- The slot state code; 0 for IDLE. -/
def Slot.stateCode (sl : Slot) : BitVec 8 :=
  match sl.arming with
  | none => 0
  | some a => a.phase.code

def GuardStage.code : GuardStage → BitVec 8
  | .normal => 0
  | .warned => 1

def HeldFrom.code : HeldFrom → BitVec 8
  | .armed => 1
  | .waiting => 2

def ControllerState.code : ControllerState → BitVec 3
  | .halted => 0
  | .loading => 1
  | .running => 2
  | .pausing => 3
  | .paused => 4
  | .faulted => 5

def FaultCause.code : FaultCause → BitVec 3
  | .none => 0
  | .configRead => 1
  | .configBad => 2
  | .fetchRead => 3
  | .completionWrite => 4

def CauseKind.code : CauseKind → BitVec 8
  | .none => 0
  | .input => 1
  | .guard => 2
  | .controllerFault => 3
  | .forced => 4

/-- The source number of a report, 0 to 256. -/
def Source.number : Source → BitVec 16
  | .slot n => BitVec.ofNat 16 n.val
  | .controller => 256

/-- A code or a flag in the lowest byte of a response value, 0 in the others (R167). -/
def codeValue (c : BitVec 8) : BitVec 64 := 0#56 ++ c

/-- A level or a condition as 0 or 1 in a response value (R167). -/
def boolValue (b : Bool) : BitVec 64 := if b then 1 else 0

/-! ## Packed response values (R167) -/

/-- The cause set as a mask (07, 7.1). -/
def TripUnit.causeMask (t : TripUnit) : BitVec 16 :=
  0#5 ++ BitVec.ofBool t.forcedCause ++ BitVec.ofBool t.faultCause ++ BitVec.ofBool t.guardCause ++ t.inputCauses

/-- A trip unit with some cause active or latched. -/
def TripUnit.anyCause (t : TripUnit) : Bool :=
  t.inputCauses != 0 || t.guardCause || t.faultCause || t.forcedCause

/-- FORCE_TRIP and CLEAR_TRIP, value A: cause set mask, first cause kind, first cause index. -/
def tripValue (mask : BitVec 16) (record : TripRecord) : BitVec 64 :=
  0#32 ++ record.index ++ record.kind.code ++ mask

/-- The limit that QUERY_SLOT answers (R40). -/
def ModePart.limitLeft : ModePart → BitVec 16
  | .once => 0
  | .repeating p => p.limit
  | .guard _ => 0
  | .waitEdge p => p.limit

/-- The stage code that QUERY_SLOT answers: NORMAL for a slot not of mode GUARD (R40). -/
def ModePart.stageCode : ModePart → BitVec 8
  | .once => 0
  | .repeating _ => 0
  | .guard p => p.stage.code
  | .waitEdge _ => 0

/-- Whether a REPEAT slot holds a staged change (R40). -/
def ModePart.hasStaged : ModePart → Bool
  | .once => false
  | .repeating p => p.staged.isSome
  | .guard _ => false
  | .waitEdge _ => false

/-- The deadline or remaining time a slot holds (R40, R30). -/
def Phase.heldTime : Phase → Option (BitVec 64)
  | .armed d => some d
  | .waiting t => t
  | .held _ r => r

/-- The held-from code that QUERY_SLOT answers: ARMED for a slot that is not HELD (R40). -/
def Phase.heldFromCode : Phase → BitVec 8
  | .armed _ => HeldFrom.armed.code
  | .waiting _ => HeldFrom.armed.code
  | .held o _ => o.code

/-- QUERY_SLOT, value B (R40, R167). -/
def queryValue (sl : Slot) : BitVec 64 :=
  match sl.arming with
  | none => HeldFrom.armed.code ++ 0#56
  | some a =>
    a.phase.heldFromCode ++ (if a.part.hasStaged then 1#8 else 0#8) ++ a.part.limitLeft ++ a.part.stageCode
      ++ (if a.phase.heldTime.isSome then 1#8 else 0#8) ++ a.part.code ++ a.phase.code

/-! ## Completion records (11.4) -/

/-- The response flags (11.4). -/
def Answer.flagsMask (a : Answer) : BitVec 16 :=
  0#14 ++ BitVec.ofBool a.wasClear ++ BitVec.ofBool a.reportWasPending

/-- The slot field of a response: 0xFFFF when no slot is named (R144). -/
def slotField : Option SlotNumber → BitVec 16
  | none => 0xFFFF
  | some n => BitVec.ofNat 16 n.val

/-- The record of a response (R144, R166). -/
def HeldResponse.record (h : HeldResponse) (sequence : BitVec 32) : CompletionRecord :=
  { type := 1, code := h.answer.status.code, flags := h.answer.flagsMask, sequence := sequence,
    first := h.answer.valueA, second := h.answer.valueB, source := slotField h.answer.named,
    generation := h.answer.generation, idOrCount := h.requestId, submissionHead := h.submissionHead }

/-- The record of a report, from the report fields as they stand at the issue (R156, R166). -/
def reportRecord (source : Source) (fields : ReportFields) (generation : BitVec 16) (head : Nat)
    (sequence : BitVec 32) : CompletionRecord :=
  { type := 2, code := eventCode fields.event, flags := fields.flags.mask, sequence := sequence,
    first := fields.tag, second := fields.time, source := source.number, generation := generation,
    idOrCount := fields.count, submissionHead := BitVec.ofNat 16 head }

/-! ## Register window (R168) -/

/-- The eight registers of the window. -/
inductive Register
  | control | status | configLo | configHi | submitTail | completeHead | intCause | intEnable
  deriving DecidableEq, Repr

/-- STATUS: controller state in bits 0 to 2, fault cause in 4 to 6, trip state in 8, the three flags in 16 to 18. -/
def State.statusWord (s : State) : BitVec 32 :=
  0#13 ++ BitVec.ofBool s.control.headRange ++ BitVec.ofBool s.control.tailRange ++ BitVec.ofBool s.control.cmdIgnored
    ++ 0#7 ++ BitVec.ofBool (s.trip.state == .tripped) ++ 0#1 ++ s.control.faultCause.code ++ 0#1 ++ s.control.state.code

/-- What a read of a register returns. Only the read of STATUS changes anything, and it is a command (R130). -/
def State.readRegister (r : Register) (s : State) : BitVec 32 :=
  match r with
  | .control => 0
  | .status => s.statusWord
  | .configLo => s.control.configLo
  | .configHi => s.control.configHi
  | .submitTail => BitVec.ofNat 32 s.fetch.tail
  | .completeHead => BitVec.ofNat 32 s.writer.completeHead
  | .intCause => 0#29 ++ s.control.intCause
  | .intEnable => 0#29 ++ s.control.intEnable

/-- The COMPLETION, FAULT and TRIP bits of INT_CAUSE and INT_ENABLE. -/
def intCompletion : BitVec 3 := 1
def intFault : BitVec 3 := 2
def intTrip : BitVec 3 := 4

/-! ## Output pins -/

/-- INT_N is driven low while an enabled cause is set (R163). -/
def State.intAsserted (s : State) : Bool := s.control.intCause &&& s.control.intEnable != 0

/-- FAULT_N is driven low while the trip state is TRIPPED (R103). -/
def State.faultAsserted (s : State) : Bool := s.trip.state == .tripped

/-- The level driven on an OUTn pin; none is high impedance (R62). -/
def State.outputPin (n : LineNumber) (s : State) : Option Bool := (s.lines[n]).drive.map (·.level)

end Sys2Proof.Machine
end

