-- ==== Sys2Proof/Machine/Ops.lean ====
section
/-! DEFINITION. The operations the commands share: arithmetic on device time, the slot table with its deadline list, the
report fields and the report queue, actions on output lines, trip raises, fault entry, and the request engine's answers. -/

namespace Sys2Proof.Machine

/-! ## One update per block -/

/-- The state with another `time`. -/
def State.withTime (x : TimeBase) (s : State) : State := { s with time := x }

/-- The state with another `slots`. -/
def State.withSlots (x : Vector Slot 256) (s : State) : State := { s with slots := x }

/-- The state with another `groups`. -/
def State.withGroups (x : Vector GroupState 16) (s : State) : State := { s with groups := x }

/-- The state with another `deadlineList`. -/
def State.withDeadlineList (x : List SlotNumber) (s : State) : State := { s with deadlineList := x }

/-- The state with another `lines`. -/
def State.withLines (x : Vector OutputLine 16) (s : State) : State := { s with lines := x }

/-- The state with another `configurationPresent`. -/
def State.withConfigurationPresent (x : Bool) (s : State) : State := { s with configurationPresent := x }

/-- The state with another `inputs`. -/
def State.withInputs (x : Vector InputLine 8) (s : State) : State := { s with inputs := x }

/-- The state with another `trip`. -/
def State.withTrip (x : TripUnit) (s : State) : State := { s with trip := x }

/-- The state with another `fetch`. -/
def State.withFetch (x : FetchUnit) (s : State) : State := { s with fetch := x }

/-- The state with another `held`. -/
def State.withHeld (x : Option HeldResponse) (s : State) : State := { s with held := x }

/-- The state with another `writer`. -/
def State.withWriter (x : CompletionWriter) (s : State) : State := { s with writer := x }

/-- The state with another `control`. -/
def State.withControl (x : ControlBlock) (s : State) : State := { s with control := x }

/-- The state with another `freeCount`. -/
def State.withFreeCount (x : Nat) (s : State) : State := { s with freeCount := x }

/-- The state with another `pending`. -/
def State.withPending (x : List Instr) (s : State) : State := { s with pending := x }

/-! ## Device time -/

/-- The end of the range of device time, 2^64 - 1 (R5). -/
def endOfTime : Time := BitVec.allOnes 64

/-- A time plus a number of ticks, where that lies in range (spec/00_scope.md, 3.1). -/
def later? (t : Time) (n : Nat) : Option Time :=
  if t.toNat + n < 2 ^ 64 then some (BitVec.ofNat 64 (t.toNat + n)) else none

/-- A time moved by a signed number of ticks, where that lies in range (R10). -/
def moved? (t : Time) (k : Int) : Option Time :=
  if 0 ≤ (t.toNat : Int) + k ∧ (t.toNat : Int) + k < 2 ^ 64 then some (BitVec.ofNat 64 ((t.toNat : Int) + k).toNat) else none

/-- The ticks from `a` to `b`; 0 when `b` is at or before `a` (R26, R36). -/
def ticksTo (a b : Time) : BitVec 64 := BitVec.ofNat 64 (b.toNat - a.toNat)

/-! ## Slots and the deadline list (R41 to R43) -/

/-- The deadline of an arming: of an ARMED slot, or the timeout deadline of a WAITING one. -/
def Arming.deadline? (a : Arming) : Option Time :=
  match a.phase with
  | .armed d => some d
  | .waiting t => t
  | .held _ _ => none

/-- The deadline with which a slot stands in the deadline list; none when it does not stand there (R42). -/
def Slot.deadline? (sl : Slot) : Option Time := sl.arming.bind Arming.deadline?

/-- The order of the deadline list: by deadline, then by slot number (R41). -/
def deadlineKey (slots : Vector Slot 256) (n : SlotNumber) : Nat :=
  ((slots[n].deadline?).getD 0).toNat * 256 + n.val

/-- Insertion at the place a slot's deadline and number give (R43). -/
def insertDeadline (slots : Vector Slot 256) (n : SlotNumber) : List SlotNumber → List SlotNumber
  | [] => [n]
  | m :: ms =>
    if deadlineKey slots n < deadlineKey slots m then n :: m :: ms else m :: insertDeadline slots n ms

/-- The whole list brought into order (R14). -/
def sortDeadlines (slots : Vector Slot 256) (l : List SlotNumber) : List SlotNumber :=
  l.foldr (insertDeadline slots) []

/-- The list after slot `n` has changed: inserted, moved or removed as its deadline says (R42, R43). -/
def relist (slots : Vector Slot 256) (n : SlotNumber) (l : List SlotNumber) : List SlotNumber :=
  if (slots[n].deadline?).isSome then insertDeadline slots n (l.erase n) else l.erase n

/-- Set a slot record, and carry the change to the deadline list within the same taking (R42). -/
def State.putSlot (n : SlotNumber) (sl : Slot) (s : State) : State :=
  (s.withSlots (s.slots.set n sl)).withDeadlineList (relist (s.slots.set n sl) n s.deadlineList)

/-- Set the arming of a slot; none makes it IDLE. Generation and report are kept (R18). -/
def State.putArming (n : SlotNumber) (a : Option Arming) (s : State) : State :=
  s.putSlot n { s.slots[n] with arming := a }

/-- The slots that satisfy a condition, in ascending order. -/
def slotsWhere (p : SlotNumber → Bool) : List SlotNumber := (List.finRange 256).filter p

/-! ## Reports (R150, R156) -/

/-- The report of a source. -/
def State.report (source : Source) (s : State) : Report :=
  match source with
  | .slot n => s.slots[n].report
  | .controller => s.writer.controllerEntry

/-- Set the report of a source. No deadline changes. -/
def State.putReport (source : Source) (r : Report) (s : State) : State :=
  match source with
  | .slot n => s.withSlots (s.slots.set n { s.slots[n] with report := r })
  | .controller => s.withWriter { s.writer with controllerEntry := r }

/-- An event as it is recorded. -/
structure Occurrence where
  event : Event
  time  : Time
  tag   : BitVec 64
  flags : ReportFlags
  deriving DecidableEq, Repr

/-- A count of report fields one higher, staying at 65,535 (R150). -/
def saturatingSucc (c : BitVec 16) : BitVec 16 := if c = BitVec.allOnes 16 then c else c + 1

/-- An event coalesced into report fields (R150). -/
def ReportFields.coalesce (o : Occurrence) (f : ReportFields) : ReportFields :=
  { event := some o.event
    time := o.time
    tag := o.tag
    count := saturatingSucc f.count
    flags := (f.flags.union o.flags).union { saturated := f.count == BitVec.allOnes 16 } }

/-- Whether a write in flight carries a report of the source. -/
def CompletionWrite.carries (source : Source) (w : CompletionWrite) : Bool :=
  match w.source with
  | .report src _ => src == source
  | .response => false

/-- Change the write in flight if it carries a report of the source. -/
def State.noteWrite (source : Source) (note : CompletionWrite → CompletionWrite) (s : State) : State :=
  s.withWriter { s.writer with inFlight := s.writer.inFlight.map fun w => if w.carries source then note w else w }

/-- The source joins the tail of the report queue (R151). -/
def State.enqueue (source : Source) (s : State) : State :=
  s.withWriter { s.writer with queue := s.writer.queue ++ [source] }

/-- Make a source's report pending: it joins the queue, or keeps its place and the write in flight notes the event
(R150, R156). -/
def State.makePending (source : Source) (s : State) : State :=
  match (s.report source).state with
  | .none => (s.putReport source { s.report source with state := .pending }).enqueue source
  | .pending => s.noteWrite source fun w => { w with eventNoted := true }

/-- Record an event on a source: coalesce it, and make the report pending if it does so (R150). -/
def State.recordEvent (source : Source) (o : Occurrence) (makesPending : Bool) (s : State) : State :=
  let coalesced := s.putReport source { s.report source with fields := (s.report source).fields.coalesce o }
  if makesPending then coalesced.makePending source else coalesced

/-- Record an event on a slot with the tag and report policy of its arming, at device time (R49, R53). -/
def State.recordSlotEvent (n : SlotNumber) (a : Arming) (event : Event) (flags : ReportFlags) (s : State) : State :=
  s.recordEvent (.slot n) { event := event, time := s.time.now, tag := a.tag, flags := flags }
    (a.policy.makesPending event flags)

/-! ## Actions on output lines (R51, R64, R65) -/

/-- The pulse end a pulse places, where it lies in range (R65). -/
def pulseEndAfter (now : Time) (width : BitVec 32) (level : Bool) : Option PulseEnd :=
  (later? now width.toNat).map fun t => { time := t, level := level }

/-- The drive of an enabled line after an action (R64, R65). -/
def Drive.apply (kind : ActionKind) (now : Time) (d : Drive) : Drive :=
  match kind with
  | .set => { level := true, pulseEnd := none }
  | .clear => { level := false, pulseEnd := none }
  | .toggle => { level := !d.level, pulseEnd := none }
  | .pulseHigh width => { level := true, pulseEnd := pulseEndAfter now width false }
  | .pulseLow width => { level := false, pulseEnd := pulseEndAfter now width true }

/-- Set the drive of a line. -/
def State.putDrive (n : LineNumber) (d : Option Drive) (s : State) : State :=
  s.withLines (s.lines.set n { s.lines[n] with drive := d })

/-- Whether a line is held at its safe level: it participates and the device is TRIPPED (R70). -/
def State.lineTripped (n : LineNumber) (s : State) : Bool := s.lines[n].participates && s.trip.state == .tripped

/-- What becomes of the action of an expiry or a capture (R51). -/
inductive ActionOutcome
  | absent | dropped | suppressed | performed
  deriving DecidableEq, Repr

/-- The outcome of an action, the first case that applies (R51). -/
def State.actionOutcome (action : Option Action) (s : State) : ActionOutcome :=
  match action with
  | none => .absent
  | some a =>
    if s.lines[a.line].drive.isNone then .dropped
    else if s.lineTripped a.line then .suppressed
    else .performed

/-- The flags an outcome gives the event (R51). -/
def ActionOutcome.flags : ActionOutcome → ReportFlags
  | .absent => {}
  | .dropped => { dropped := true }
  | .suppressed => { suppressed := true }
  | .performed => {}

/-- Perform an action where its outcome is "performed" (R51). -/
def State.performAction (action : Option Action) (s : State) : State :=
  match action with
  | none => s
  | some a =>
    if s.actionOutcome (some a) = .performed then
      s.putDrive a.line (s.lines[a.line].drive.map (Drive.apply a.kind s.time.now))
    else s

/-! ## Trip raises (R104 to R110) -/

/-- A raise: the cause and its index (R104). -/
inductive Raise
  | input (line : InputNumber)
  | guard (slot : SlotNumber)
  | controllerFault (cause : FaultCause)
  | forced
  deriving DecidableEq, Repr

/-- Bit n of a mask of input lines. -/
def inputBit (n : InputNumber) : BitVec 8 := 1#8 <<< n.val

/-- The first cause kind of a raise (R104). -/
def Raise.kind : Raise → CauseKind
  | .input _ => .input
  | .guard _ => .guard
  | .controllerFault _ => .controllerFault
  | .forced => .forced

/-- The first cause index of a raise (R104). -/
def Raise.index : Raise → BitVec 8
  | .input n => BitVec.ofNat 8 n.val
  | .guard n => BitVec.ofNat 8 n.val
  | .controllerFault c => 0#5 ++ c.code
  | .forced => 0

/-- The cause made active or latched (R104). -/
def TripUnit.addCause (r : Raise) (t : TripUnit) : TripUnit :=
  match r with
  | .input n => { t with inputCauses := t.inputCauses ||| inputBit n }
  | .guard _ => { t with guardCause := true }
  | .controllerFault _ => { t with faultCause := true }
  | .forced => { t with forcedCause := true }

/-- A line under trip entry: safe level and no pulse end if it is enabled and participates (R69). -/
def OutputLine.forceSafe (l : OutputLine) : OutputLine :=
  if l.participates then { l with drive := l.drive.map fun _ => { level := l.safeLevel, pulseEnd := none } } else l

/-- An interrupt cause set in INT_CAUSE (R163). -/
def State.setCause (cause : BitVec 3) (s : State) : State :=
  s.withControl { s.control with intCause := s.control.intCause ||| cause }

/-- Parts 2 to 6 of trip entry; FAULT_N follows the trip state (R108). -/
def State.enterTripped (r : Raise) (s : State) : State :=
  ((s.withTrip { s.trip with
      state := .tripped
      record := { kind := r.kind, index := r.index, time := s.time.now } }).withLines
    (s.lines.map OutputLine.forceSafe)).setCause intTrip

/-- A TRIP event recorded on the controller entry (R110). -/
def State.recordTripEvent (s : State) : State :=
  s.recordEvent .controller
    { event := .trip, time := s.time.now, tag := 0#48 ++ s.trip.causeMask, flags := {} } true

/-- A raise taken by the trip unit: trip entry while CLEAR (R108), a further cause while TRIPPED (R109). -/
def State.raise (r : Raise) (s : State) : State :=
  let caused := s.withTrip (s.trip.addCause r)
  match s.trip.state with
  | .clear => (caused.enterTripped r).recordTripEvent
  | .tripped => caused.recordTripEvent

/-! ## Controller: pausing and faults (R125, R128) -/

/-- Set the controller state. -/
def State.withState (c : ControllerState) (s : State) : State := s.withControl { s.control with state := c }

/-- PAUSING becomes PAUSED when no fetch is in flight and no response is held (R125). -/
def State.settlePause (s : State) : State :=
  if s.control.state = .pausing ∧ s.fetch.inFlight = none ∧ s.held = none then s.withState .paused else s

/-- The fetch in flight, if there is one, is discarded: its result will be dropped (R127, R129). -/
def FetchUnit.discard (f : FetchUnit) : FetchUnit :=
  match f.inFlight with
  | none => f
  | some _ => { f with inFlight := none, abandoned := f.abandoned + 1 }

/-- An entry into FAULTED: the fault cause, the FAULT interrupt cause, and the raise under TRIP_ON_FAULT (R106, R128).
A fetch still in flight is discarded (R127). -/
def State.enterFaulted (cause : FaultCause) (s : State) : State :=
  let faulted := ((s.withControl { s.control with
      state := .faulted
      origin := none
      faultCause := cause }).withFetch s.fetch.discard).setCause intFault
  if s.control.tripOnFault then faulted.raise (.controllerFault cause) else faulted

/-! ## The request engine (R138, R144, R145) -/

/-- The answer to a request refused at steps 1 to 5 of validation (R142). -/
def Answer.refusal (status : Status) : Answer :=
  { status := status, valueA := 0, valueB := 0, named := none, generation := 0, reportWasPending := false,
    wasClear := false }

/-- An answer that names no slot and carries no flag. -/
def Answer.plain (status : Status) (a b : BitVec 64) : Answer :=
  { status := status, valueA := a, valueB := b, named := none, generation := 0, reportWasPending := false,
    wasClear := false }

/-- An answer that names a slot, with its generation as it stands when the response is formed (R19). -/
def State.answerSlot (n : SlotNumber) (status : Status) (a b : BitVec 64) (wasPending : Bool) (s : State) : Answer :=
  { status := status, valueA := a, valueB := b, named := some n, generation := s.slots[n].generation,
    reportWasPending := wasPending, wasClear := false }

/-- Whether the report state of a slot is PENDING. -/
def State.slotPending (n : SlotNumber) (s : State) : Bool := s.slots[n].report.state == .pending

/-- Form the response and hold it (R144, R145). -/
def State.holdResponse (kind : ResponseKind) (r : Request) (a : Answer) (s : State) : State :=
  s.withHeld (some
    { kind := kind, answer := a, requestId := r.requestId, submissionHead := BitVec.ofNat 16 s.fetch.head })

end Sys2Proof.Machine
end

