-- ==== Sys2Proof/Machine/Operands.lean ====
section
/-! DEFINITION. The operands of a request: its kind, the fields each kind reads, and the validation of R139 to R141. -/

namespace Sys2Proof.Machine

/-- The request kinds (9.4). -/
inductive RequestKind
  | nop | fence | arm | cancel | cancelGroup | stage | renew | hold | release | querySlot | line | configInput
  | readTime | stepTime | setTime | clearTrip | forceTrip
  deriving DecidableEq, Repr

/-- The code of a kind (11.7). -/
def RequestKind.code : RequestKind → Byte
  | .nop => 0
  | .fence => 1
  | .arm => 2
  | .cancel => 3
  | .cancelGroup => 4
  | .stage => 5
  | .renew => 6
  | .hold => 7
  | .release => 8
  | .querySlot => 9
  | .line => 10
  | .configInput => 11
  | .readTime => 12
  | .stepTime => 13
  | .setTime => 14
  | .clearTrip => 15
  | .forceTrip => 16

/-- All kinds, in the order of their codes. -/
def RequestKind.all : List RequestKind :=
  [.nop, .fence, .arm, .cancel, .cancelGroup, .stage, .renew, .hold, .release, .querySlot, .line, .configInput,
    .readTime, .stepTime, .setTime, .clearTrip, .forceTrip]

/-- Step 1 of validation: the kind a code names (R139). -/
def RequestKind.ofCode? (c : Byte) : Option RequestKind := RequestKind.all[c.toNat]?

/-- The mode codes (11.7). -/
inductive Mode
  | once | repeating | guard | waitEdge
  deriving DecidableEq, Repr

def Mode.ofCode? (c : Byte) : Option Mode :=
  match c.toNat with
  | 1 => some .once
  | 2 => some .repeating
  | 3 => some .guard
  | 4 => some .waitEdge
  | _ => none

def EdgeSelect.ofCode? (c : Byte) : Option EdgeSelect :=
  match c.toNat with
  | 1 => some .rise
  | 2 => some .fall
  | 3 => some .any
  | _ => none

def ReportPolicy.ofCode? (c : Byte) : Option ReportPolicy :=
  match c.toNat with
  | 0 => some .every
  | 1 => some .final
  | 2 => some .none
  | _ => Option.none

def LatePolicy.ofCode? (c : Byte) : Option LatePolicy :=
  match c.toNat with
  | 0 => some .onGrid
  | 1 => some .restart
  | _ => none

def TripLevel.ofCode? (c : Byte) : Option TripLevel :=
  match c.toNat with
  | 0 => some .none
  | 1 => some .high
  | 2 => some .low
  | _ => Option.none

/-- The action kind of a request; a pulse width is read for the two pulse kinds alone and lies in 1 to 2^24 - 1
(R67, R141). -/
def actionKind? (r : Request) : Option ActionKind :=
  let widthFits := decide (1 ≤ r.pulseWidth.toNat ∧ r.pulseWidth.toNat < 2 ^ 24)
  match r.actionKind.toNat with
  | 1 => some .set
  | 2 => some .clear
  | 3 => some .toggle
  | 4 => if widthFits then some (.pulseHigh r.pulseWidth) else none
  | 5 => if widthFits then some (.pulseLow r.pulseWidth) else none
  | _ => none

/-- A line number of a request field; none when it is 16 or above. -/
def line? (b : Byte) : Option LineNumber := if h : b.toNat < 16 then some ⟨b.toNat, h⟩ else none

/-- An input line number of a request field; none when it is 8 or above. -/
def input? (b : Byte) : Option InputNumber := if h : b.toNat < 8 then some ⟨b.toNat, h⟩ else none

/-- A group number of a request field; none when it is 16 or above. -/
def group? (b : Byte) : Option GroupNumber := if h : b.toNat < 16 then some ⟨b.toNat, h⟩ else none

/-- The slot a request names; none when the slot field is 256 or above. -/
def slot? (r : Request) : Option SlotNumber := if h : r.slot.toNat < 256 then some ⟨r.slot.toNat, h⟩ else none

/-- The action a request carries: its line and its kind. -/
def action? (r : Request) : Option Action :=
  (line? r.outputLine).bind fun l => (actionKind? r).map fun k => { line := l, kind := k }

/-- The action of an ARM: absent with HAS_ACTION clear (R24). -/
def armAction (r : Request) : Option Action := if hasAction r then action? r else none

/-- The groups a group mask names. -/
def namesGroup (r : Request) (g : GroupNumber) : Bool := r.groupMask.getLsbD g.val

/-- The mode part an ARM sets up, `now` being its last renew time in mode GUARD (part 3 of R26). -/
def modePart? (r : Request) (now : Time) : Option ModePart :=
  match Mode.ofCode? r.mode with
  | none => none
  | some .once => some .once
  | some .repeating =>
    (LatePolicy.ofCode? r.latePolicy).map fun p =>
      .repeating { period := r.period, limit := r.limit, latePolicy := p, staged := none }
  | some .guard =>
    some (.guard
      { period := r.period, stage := .normal, grace := r.grace, window := r.delay, lastRenew := now,
        tripOnFault := guardTrip r })
  | some .waitEdge =>
    (input? r.inputLine).bind fun n => (EdgeSelect.ofCode? r.edgeSelect).map fun e =>
      .waitEdge
        { input := n, select := e
          timeout := if hasTimeout r then some r.grace else none
          delay := if hasEdgeDelay r then some r.delay else none
          lastCapture := none, limit := r.limit }

/-- The anchoring an ARM gives (R20). -/
def armAnchoring (r : Request) : Anchoring :=
  if Mode.ofCode? r.mode = some .guard then .rel else if anchorAbs r then .abs else .rel

/-! ## Validation (R139 to R141) -/

/-- The flags meaningful for a request, as a mask of the sixteen flag bits (R140). -/
def meaningfulFlags (k : RequestKind) (r : Request) : BitVec 16 :=
  match k with
  | .cancel => 0x0008
  | .renew => 0x0008
  | .stage => if stageAction r then 0x01D0 else 0x01C0
  | .arm =>
    match Mode.ofCode? r.mode with
    | some .once => 0x0017
    | some .repeating => 0x0017
    | some .guard => 0x0037
    | some .waitEdge => 0x0616
    | none => 0x0637
  | _ => 0

/-- Step 2: a reserved byte is not 0, or a flag is set that is not meaningful, or a STAGE names no change (R140). -/
def step2Fails (k : RequestKind) (r : Request) : Bool :=
  r.reserved47 != 0 || r.reserved56 != 0 || (r.flags &&& ~~~ meaningfulFlags k r) != 0
    || (k == .stage && !(stagePeriod r || stageAction r || stageLimit r))

/-- The kinds that name a slot (R139). -/
def RequestKind.namesSlot (k : RequestKind) : Bool :=
  k == .arm || k == .cancel || k == .stage || k == .renew || k == .querySlot

/-- The records whose action kind, pulse width and output line are checked (R141). -/
def readsLine (k : RequestKind) (r : Request) : Bool :=
  match k with
  | .arm => hasAction r
  | .stage => stageAction r && hasAction r
  | .line => true
  | _ => false

/-- Step 4 for the fields an ARM's mode reads (R141). -/
def armFieldFails (r : Request) : Bool :=
  (ReportPolicy.ofCode? r.reportPolicy).isNone || (group? r.group).isNone
    || match Mode.ofCode? r.mode with
      | none => true
      | some .once => false
      | some .repeating => r.period == 0 || (LatePolicy.ofCode? r.latePolicy).isNone
      | some .guard => r.period == 0 || r.grace == 0
      | some .waitEdge =>
        r.timeValue != 0 || (input? r.inputLine).isNone || (EdgeSelect.ofCode? r.edgeSelect).isNone
          || (hasTimeout r && r.grace == 0) || (hasEdgeDelay r && r.delay == 0)

/-- Step 4: a field that the kind reads lies outside its range (R141). -/
def step4Fails (k : RequestKind) (r : Request) : Bool :=
  (readsLine k r && (actionKind? r).isNone)
    || match k with
      | .arm => armFieldFails r
      | .stage => stagePeriod r && r.period == 0
      | .configInput => (input? r.inputLine).isNone || (TripLevel.ofCode? r.tripLevel).isNone
      | .stepTime => r.timeValue == 0
      | _ => false

/-- Whether a line is enabled in the output enable mask of the last successful load; that is when it is driven (R62). -/
def State.lineEnabled (n : LineNumber) (s : State) : Bool := s.lines[n].drive.isSome

/-- Step 5: the output line is 16 or above, or is not enabled (R141). -/
def step5Fails (k : RequestKind) (r : Request) (s : State) : Bool :=
  readsLine k r && match line? r.outputLine with
    | none => true
    | some n => !s.lineEnabled n

/-- Steps 2 to 5 of validation, the first that fails deciding (R139). -/
def refusal? (k : RequestKind) (r : Request) (s : State) : Option Status :=
  if step2Fails k r then some .badField
  else if k.namesSlot && (slot? r).isNone then some .badSlot
  else if step4Fails k r then some .badField
  else if step5Fails k r s then some .badLine
  else none

/-! ## Taking a request -/

/-- What arbitration must know of a response (R154, R161). -/
def responseKind (k : RequestKind) (a : Answer) : ResponseKind :=
  match k, a.status, a.named with
  | .fence, _, _ => .fence
  | .arm, .ok, some n => .acceptedArm n
  | _, _, _ => .ordinary

/-- The request engine takes a record of kind `k`: validation, handing over to the owning block, response (R138). -/
def engineTakes (k : RequestKind) (r : Request) (owner : Request → State → State × Answer) (s : State) : State :=
  match refusal? k r s with
  | some status => s.holdResponse .ordinary r (.refusal status)
  | none => (owner r s).1.holdResponse (responseKind k (owner r s).2) r (owner r s).2

/-- The data of the fetch in flight arrives: a withdrawn record is dropped, any other advances the head and is handed to
the request engine within the same claim (R136). Without a fetch in flight nothing arrives. -/
def State.arrive (take : State → State) (s : State) : State :=
  match s.fetch.inFlight with
  | none => s
  | some _ =>
    if s.fetch.tail = s.fetch.head then (s.withFetch { s.fetch with inFlight := none }).settlePause
    else take (s.withFetch
      { s.fetch with
        inFlight := none
        head := (s.fetch.head + 1) % s.fetch.entries })

/-- An owning block asked for a slot that validation has found missing: it changes nothing. Validation never lets such a
request through. -/
def missingSlot (s : State) : State × Answer := (s, .refusal .badSlot)

end Sys2Proof.Machine
end

