-- ==== Sys2Proof/Machine/Expiry.lean ====
section
/-! DEFINITION. Expiries (spec/03_the_deadline_list_and_expiry.md, the steps of guards in 06 6.2 and the expiries of edge
waits in 05 5.5), and the six rows by which they are commanded. -/

namespace Sys2Proof.Machine

/-- Which processing an expiry takes (R50). -/
inductive ExpiryKind
  | once | repeating | guardWarn | guardFault | afterEdge | timeout
  deriving DecidableEq, Repr

/-- The processing of an expiry by state and mode (R50). A combination no slot holds takes none. -/
def Arming.expiryKind? (a : Arming) : Option ExpiryKind :=
  match a.phase, a.part with
  | .armed _, .once => some .once
  | .armed _, .repeating _ => some .repeating
  | .armed _, .guard g => if g.stage = .normal then some .guardWarn else some .guardFault
  | .armed _, .waitEdge _ => some .afterEdge
  | .waiting (some _), .waitEdge _ => some .timeout
  | _, _ => none

/-- An expiry is late when its deadline lies before device time (R49). -/
def isLate (a : Arming) (now : Time) : Bool :=
  match a.deadline? with
  | some d => decide (d < now)
  | none => false

/-! ## ONCE (R54) -/

/-- The expiry of an ARMED ONCE slot (R54). -/
def onceExpiry (n : SlotNumber) (a : Arming) (late : Bool) (s : State) : State :=
  ((s.performAction a.action).putArming n none).recordSlotEvent n a .expiry
    ((s.actionOutcome a.action).flags.union { late := late, final := true })

/-! ## REPEAT (R55 to R60) -/

/-- A staged change applied to the action (R56). -/
def stagedAction (a : Arming) (p : RepeatPart) : Option Action :=
  match p.staged.bind (·.action) with
  | none => a.action
  | some .remove => none
  | some (.replace action) => some action

/-- The fields of a REPEAT slot after its staged change is applied and cleared (R56). -/
def RepeatPart.applyStaged (p : RepeatPart) : RepeatPart :=
  { period := (p.staged.bind (·.period)).getD p.period
    limit := (p.staged.bind (·.limit)).getD p.limit
    latePolicy := p.latePolicy
    staged := none }

/-- The number of missed grid points of an expiry (R58, R59). -/
def RepeatPart.missed (p : RepeatPart) (deadline now : Time) : Nat :=
  match p.latePolicy with
  | .onGrid => (now.toNat - deadline.toNat) / p.period.toNat
  | .restart => 0

/-- The next deadline, where it lies in range (R58, R59, R60). -/
def RepeatPart.next? (p : RepeatPart) (deadline now : Time) : Option Time :=
  match p.latePolicy with
  | .onGrid => later? deadline ((p.missed deadline now + 1) * p.period.toNat)
  | .restart => later? now p.period.toNat

/-- A limit counted down; none when it is spent. 0 is unbounded (R57, R83). -/
def countLimit (limit : BitVec 16) (n : Nat) : Option (BitVec 16) :=
  if limit = 0 then some 0
  else if n < limit.toNat then some (BitVec.ofNat 16 (limit.toNat - n))
  else none

/-- What an expiry leaves of a REPEAT slot, IDLE when the limit is spent or no deadline is in range (parts 2 to 5 of
R55). -/
def repeatAfter (a : Arming) (p : RepeatPart) (now : Time) : Option Arming :=
  let deadline := (a.deadline?).getD now
  let staged := p.applyStaged
  (staged.next? deadline now).bind fun d =>
    (countLimit staged.limit (1 + staged.missed deadline now)).map fun limit =>
      { a with action := stagedAction a p, part := .repeating { staged with limit := limit }, phase := .armed d }

/-- The expiry of an ARMED REPEAT slot (R55). -/
def repeatExpiry (n : SlotNumber) (a : Arming) (late : Bool) (s : State) : State :=
  match a.part with
  | .repeating p =>
    let after := repeatAfter a p s.time.now
    let missed := p.applyStaged.missed ((a.deadline?).getD s.time.now) s.time.now
    ((s.performAction a.action).putArming n after).recordSlotEvent n a .expiry
      ((s.actionOutcome a.action).flags.union
        { late := late, overrun := decide (1 ≤ missed), final := after.isNone })
  | _ => s

/-! ## GUARD (R92 to R94) -/

/-- The fault step of a guard, with the flags it carries beyond FINAL and the action's outcome (R93). -/
def guardFaultStep (n : SlotNumber) (a : Arming) (g : GuardPart) (flags : ReportFlags) (s : State) : State :=
  let faulted := ((s.performAction a.action).putArming n none).recordSlotEvent n a .guardFault
    (((s.actionOutcome a.action).flags.union { final := true }).union flags)
  if g.tripOnFault then faulted.raise (.guard n) else faulted

/-- The warning step of a guard; the fault step in its place when the grace cannot be placed (R92, R94). -/
def guardWarnStep (n : SlotNumber) (a : Arming) (g : GuardPart) (late early : Bool) (s : State) : State :=
  match later? s.time.now g.grace.toNat with
  | some d =>
    (s.putArming n (some { a with part := .guard { g with stage := .warned }, phase := .armed d })).recordSlotEvent n a
      .guardWarn { late := late, warned := true, early := early }
  | none => guardFaultStep n a g { late := late, warned := true, early := early } s

/-- The warning expiry of a guard (R92). -/
def guardWarnExpiry (n : SlotNumber) (a : Arming) (late : Bool) (s : State) : State :=
  match a.part with
  | .guard g => guardWarnStep n a g late false s
  | _ => s

/-- The fault expiry of a guard, which is never late (R93). -/
def guardFaultExpiry (n : SlotNumber) (a : Arming) (s : State) : State :=
  match a.part with
  | .guard g => guardFaultStep n a g {} s
  | _ => s

/-! ## WAIT_EDGE (R86, R87, R89) -/

/-- A timeout deadline started at `now`: none outside means that it would lie out of range, some none that the slot has
no timeout (R84, R86, R89). -/
def restartTimeout (p : EdgePart) (now : Time) : Option (Option Time) :=
  match p.timeout with
  | none => some none
  | some t => (later? now t.toNat).map some

/-- What a counted event leaves of a WAIT_EDGE slot: WAITING again with the limit counted and its timeout restarted, or
IDLE (R84, R86, R89). -/
def waitAgain (a : Arming) (p : EdgePart) (now : Time) : Option Arming :=
  (countLimit p.limit 1).bind fun limit =>
    (restartTimeout p now).map fun t =>
      { a with part := .waitEdge { p with limit := limit }, phase := .waiting t }

/-- The expiry of an after-edge delay (R86). -/
def afterEdgeExpiry (n : SlotNumber) (a : Arming) (late : Bool) (s : State) : State :=
  match a.part with
  | .waitEdge p =>
    let after := waitAgain a p s.time.now
    ((s.performAction a.action).putArming n after).recordSlotEvent n a .expiry
      ((s.actionOutcome a.action).flags.union { late := late, final := after.isNone })
  | _ => s

/-- The timeout of a WAITING slot; its action is not performed (R87). -/
def timeoutExpiry (n : SlotNumber) (a : Arming) (late : Bool) (s : State) : State :=
  (s.putArming n none).recordSlotEvent n a .timeout { late := late, final := true }

/-! ## Taking expiries (R45 to R50) -/

/-- The expiry unit takes the expiry of a slot (R47, R50). -/
def takeExpiry (n : SlotNumber) (s : State) : State :=
  match s.slots[n].arming with
  | none => s
  | some a =>
    match a.expiryKind? with
    | none => s
    | some .once => onceExpiry n a (isLate a s.time.now) s
    | some .repeating => repeatExpiry n a (isLate a s.time.now) s
    | some .guardWarn => guardWarnExpiry n a (isLate a s.time.now) s
    | some .guardFault => guardFaultExpiry n a s
    | some .afterEdge => afterEdgeExpiry n a (isLate a s.time.now) s
    | some .timeout => timeoutExpiry n a (isLate a s.time.now) s

/-- Whether a slot stands in the list with a deadline that device time has reached (R44). -/
def State.isDue (n : SlotNumber) (s : State) : Bool :=
  match s.slots[n].deadline? with
  | some d => decide (d ≤ s.time.now)
  | none => false

/-- The due slots, in list order (R14, R45). -/
def State.dueSlots (s : State) : List SlotNumber := s.deadlineList.filter fun n => s.isDue n

/-- Every due slot is taken, in list order from the head. None is taken twice, since each leaves the list or returns to
it with a later deadline (R14, R38, R45). -/
def takeDue (s : State) : State := s.dueSlots.foldl (fun t n => takeExpiry n t) s

/-- A slot placed in the list with a deadline that has come is taken within the claim that placed it (R46). -/
def takeAtInsertion (n : SlotNumber) (s : State) : State := if s.isDue n then takeExpiry n s else s

/-- Whether the expiry unit takes slot `n` next: it is the head of the list and is due (R45; log 21). -/
def State.expiresNext (n : SlotNumber) (s : State) : Bool := decide (s.deadlineList.head? = some n) && s.isDue n

/-- An expiry row: the processing is taken when the slot's expiry comes next and is of the row's kind. An expiry sent to
any other slot does not happen (R50; log 6). -/
def whenExpires (n : SlotNumber) (kind : ExpiryKind) (processing : Arming → Bool → State → State) (s : State) : State :=
  match s.slots[n].arming with
  | none => s
  | some a =>
    if a.expiryKind? = some kind ∧ s.expiresNext n = true then processing a (isLate a s.time.now) s else s

/-- ONCE_EXPIRY (R54). -/
def execOnceExpiry (n : SlotNumber) (s : State) : Host.Outcome State Fault Refusal :=
  .next (whenExpires n .once (onceExpiry n) s)

/-- REPEAT_EXPIRY (R55). -/
def execRepeatExpiry (n : SlotNumber) (s : State) : Host.Outcome State Fault Refusal :=
  .next (whenExpires n .repeating (repeatExpiry n) s)

/-- GUARD_WARN taken by the deadline; an early renewal takes the step inside RENEW (R92). -/
def execGuardWarn (n : SlotNumber) (s : State) : Host.Outcome State Fault Refusal :=
  .next (whenExpires n .guardWarn (guardWarnExpiry n) s)

/-- GUARD_FAULT taken by the deadline; an early renewal takes the step inside RENEW (R93). -/
def execGuardFault (n : SlotNumber) (s : State) : Host.Outcome State Fault Refusal :=
  .next (whenExpires n .guardFault (fun a _ => guardFaultExpiry n a) s)

/-- AFTER_EDGE_EXPIRY (R86). -/
def execAfterEdgeExpiry (n : SlotNumber) (s : State) : Host.Outcome State Fault Refusal :=
  .next (whenExpires n .afterEdge (afterEdgeExpiry n) s)

/-- TIMEOUT (R87). -/
def execTimeout (n : SlotNumber) (s : State) : Host.Outcome State Fault Refusal :=
  .next (whenExpires n .timeout (timeoutExpiry n) s)

end Sys2Proof.Machine
end

