-- ==== Sys2Proof/Machine/Slots.lean ====
section
/-! DEFINITION. The slot table's requests (spec/02_timer_slots.md): ARM, CANCEL, CANCEL_GROUP, STAGE, HOLD, RELEASE and
QUERY_SLOT. -/

namespace Sys2Proof.Machine

/-! ## ARM (R24 to R28) -/

/-- The first deadline of an ARM, or the timeout deadline of a WAIT_EDGE one: none outside when it would lie out of range,
some none when there is none (R25). -/
def firstDeadline? (r : Request) (now : Time) : Option (Option Time) :=
  if Mode.ofCode? r.mode = some .waitEdge then
    if hasTimeout r then (later? now r.grace.toNat).map some else some none
  else if startAt r then some (some r.timeValue)
  else (later? now r.timeValue.toNat).map some

/-- The first state of a slot that is not placed in HELD: WAITING for WAIT_EDGE, else ARMED (part 4 of R26). -/
def runningPhase (part : ModePart) (deadline : Option Time) (now : Time) : Phase :=
  match part with
  | .waitEdge _ => .waiting deadline
  | _ => .armed (deadline.getD now)

/-- The first state of a slot whose group entry is HELD, with its remaining time (part 4 of R26). -/
def heldPhase (part : ModePart) (deadline : Option Time) (now : Time) : Phase :=
  match part with
  | .waitEdge _ => .held .waiting (deadline.map (ticksTo now))
  | _ => .held .armed (deadline.map (ticksTo now))

/-- Whether a mode part is that of a guard, which no HOLD suspends (R36). -/
def ModePart.isGuard (p : ModePart) : Bool :=
  match p with
  | .guard _ => true
  | _ => false

/-- The first state of a newly armed slot (part 4 of R26). -/
def firstPhase (group : GroupState) (part : ModePart) (deadline : Option Time) (now : Time) : Phase :=
  if group = .held ∧ part.isGuard = false then heldPhase part deadline now else runningPhase part deadline now

/-- The slot an accepted ARM sets up: a new generation, the fields of the request, an empty report (parts 1 to 4 of
R26, R27). -/
def armedSlot (r : Request) (part : ModePart) (policy : ReportPolicy) (group : GroupNumber) (deadline : Option Time)
    (n : SlotNumber) (s : State) : Slot :=
  { generation := s.slots[n].generation + 1
    arming := some
      { anchoring := armAnchoring r, action := armAction r, policy := policy, group := group, tag := r.tag
        part := part, phase := firstPhase s.groups[group] part deadline s.time.now }
    report := .empty }

/-- An accepted ARM: the slot is set up and, where its deadline has come, taken at its insertion (R26, R28). -/
def acceptArm (r : Request) (part : ModePart) (policy : ReportPolicy) (group : GroupNumber) (deadline : Option Time)
    (n : SlotNumber) (s : State) : State × Answer :=
  let t := takeAtInsertion n (s.putSlot n (armedSlot r part policy group deadline n s))
  (t, t.answerSlot n .ok (codeValue s.slots[n].stateCode) (deadline.getD 0) false)

/-- ARM as the slot table takes it: the three checks of R25 in their order, then R26. -/
def takeArm (r : Request) (s : State) : State × Answer :=
  match slot? r, modePart? r s.time.now, ReportPolicy.ofCode? r.reportPolicy, group? r.group with
  | some n, some part, some policy, some group =>
    if s.slotPending n then
      (s, s.answerSlot n .reportPending (codeValue s.slots[n].stateCode) 0 true)
    else if s.slots[n].arming.isSome && !replaceFlag r then
      (s, s.answerSlot n .slotBusy (codeValue s.slots[n].stateCode) 0 false)
    else
      match firstDeadline? r s.time.now with
      | none => (s, s.answerSlot n .timeRange s.time.now 0 false)
      | some deadline => acceptArm r part policy group deadline n s
  | _, _, _, _ => missingSlot s

/-- ARM (R25, R26). -/
def execArm (r : Request) (s : State) : Host.Outcome State Fault Refusal :=
  .next (s.arrive (engineTakes .arm r takeArm))

/-! ## CANCEL and CANCEL_GROUP (R30, R33) -/

/-- The report of a slot that is cancelled: a pending one gains CANCELLED, another is emptied (case 3 of R30). -/
def Report.cancel (r : Report) : Report :=
  match r.state with
  | .pending => { r with fields := { r.fields with flags := { r.fields.flags with cancelled := true } } }
  | .none => .empty

/-- A slot is cancelled; a report write in flight notes it (case 3 of R30, R156). -/
def cancelSlot (n : SlotNumber) (s : State) : State :=
  let cancelled := s.putSlot n { s.slots[n] with arming := none, report := s.slots[n].report.cancel }
  if s.slotPending n then cancelled.noteWrite (.slot n) fun w => { w with cancelNoted := true } else cancelled

/-- MATCH_GEN is set and names another generation than the slot's (R30, R96). -/
def isStale (r : Request) (n : SlotNumber) (s : State) : Bool := matchGen r && r.expectedGen != s.slots[n].generation

/-- The time a slot holds, as CANCEL and QUERY_SLOT answer it: its deadline or remaining time, else 0 (R30, R40). -/
def Slot.timeAnswer (sl : Slot) : BitVec 64 := (sl.arming.bind (·.phase.heldTime)).getD 0

/-- CANCEL as the slot table takes it, the first case that applies deciding (R30). -/
def takeCancel (r : Request) (s : State) : State × Answer :=
  match slot? r with
  | none => missingSlot s
  | some n =>
    if isStale r n s then (s, s.answerSlot n .stale (codeValue s.slots[n].stateCode) 0 (s.slotPending n))
    else if s.slots[n].arming.isNone then
      (s, s.answerSlot n .notArmed (codeValue s.slots[n].stateCode) 0 (s.slotPending n))
    else
      (cancelSlot n s,
        s.answerSlot n .ok (codeValue s.slots[n].stateCode) s.slots[n].timeAnswer (s.slotPending n))

/-- CANCEL (R30). -/
def execCancel (r : Request) (s : State) : Host.Outcome State Fault Refusal :=
  .next (s.arrive (engineTakes .cancel r takeCancel))

/-- The slots not IDLE of the groups a mask names (R33). -/
def State.slotsOfGroups (r : Request) (s : State) : List SlotNumber :=
  slotsWhere fun n =>
    match s.slots[n].arming with
    | none => false
    | some a => namesGroup r a.group

/-- CANCEL_GROUP as the slot table takes it (R33). -/
def takeCancelGroup (r : Request) (s : State) : State × Answer :=
  ((s.slotsOfGroups r).foldl (fun t n => cancelSlot n t) s,
    .plain .ok (BitVec.ofNat 64 (s.slotsOfGroups r).length)
      (BitVec.ofNat 64 ((s.slotsOfGroups r).filter fun n => s.slotPending n).length))

/-- CANCEL_GROUP (R33). -/
def execCancelGroup (r : Request) (s : State) : Host.Outcome State Fault Refusal :=
  .next (s.arrive (engineTakes .cancelGroup r takeCancelGroup))

/-! ## STAGE (R34) -/

/-- The staged change a STAGE names: the parts it does not name are absent (R34). -/
def stagedOf (r : Request) : StagedChange :=
  { period := if stagePeriod r then some r.period else none
    action :=
      if stageAction r then
        some (match armAction r with
          | some a => .replace a
          | none => .remove)
      else none
    limit := if stageLimit r then some r.limit else none }

/-- STAGE as the slot table takes it (R34). -/
def takeStage (r : Request) (s : State) : State × Answer :=
  match slot? r with
  | none => missingSlot s
  | some n =>
    match s.slots[n].arming with
    | none => (s, s.answerSlot n .notArmed (codeValue s.slots[n].stateCode) 0 false)
    | some a =>
      match a.part with
      | .repeating p =>
        (s.putArming n (some { a with part := .repeating { p with staged := some (stagedOf r) } }),
          s.answerSlot n .ok (boolValue p.staged.isSome) 0 false)
      | _ => (s, s.answerSlot n .wrongMode (codeValue s.slots[n].stateCode) 0 false)

/-- STAGE (R34). -/
def execStage (r : Request) (s : State) : Host.Outcome State Fault Refusal :=
  .next (s.arrive (engineTakes .stage r takeStage))

/-! ## HOLD and RELEASE (R36, R38) -/

/-- The group table with the entries a mask names set (R36, R38). -/
def setGroups (r : Request) (g : GroupState) (s : State) : State :=
  s.withGroups (Vector.ofFn fun n => if namesGroup r n then g else s.groups[n])

/-- The HELD phase an ARMED or WAITING slot enters (part 2 of R36). -/
def Phase.hold (now : Time) (p : Phase) : Phase :=
  match p with
  | .armed d => .held .armed (some (ticksTo now d))
  | .waiting t => .held .waiting (t.map (ticksTo now))
  | .held o r => .held o r

/-- Whether a phase is HELD. -/
def Phase.isHeld (p : Phase) : Bool :=
  match p with
  | .held _ _ => true
  | _ => false

/-- The slots a HOLD suspends: of a named group, not of mode GUARD, ARMED or WAITING (part 2 of R36). -/
def State.slotsToHold (r : Request) (s : State) : List SlotNumber :=
  slotsWhere fun n =>
    match s.slots[n].arming with
    | none => false
    | some a => namesGroup r a.group && !a.part.isGuard && !a.phase.isHeld

/-- One slot is suspended (R36). -/
def holdSlot (n : SlotNumber) (s : State) : State :=
  s.putArming n (s.slots[n].arming.map fun a => { a with phase := a.phase.hold s.time.now })

/-- HOLD as the slot table takes it (R36). -/
def takeHold (r : Request) (s : State) : State × Answer :=
  ((s.slotsToHold r).foldl (fun t n => holdSlot n t) (setGroups r .held s),
    .plain .ok (BitVec.ofNat 64 (s.slotsToHold r).length) 0)

/-- HOLD (R36). -/
def execHold (r : Request) (s : State) : Host.Outcome State Fault Refusal :=
  .next (s.arrive (engineTakes .hold r takeHold))

/-- The HELD slots of the groups a mask names (R38). -/
def State.slotsToRelease (r : Request) (s : State) : List SlotNumber :=
  slotsWhere fun n =>
    match s.slots[n].arming with
    | none => false
    | some a => namesGroup r a.group && a.phase.isHeld

/-- The phase a HELD slot returns to, none when its deadline would lie out of range (R38). A slot held from ARMED has a
remaining time; one without it would return with a deadline of now (log 33). -/
def Phase.release? (now : Time) (p : Phase) : Option Phase :=
  match p with
  | .held .armed r => (later? now (r.getD 0).toNat).map .armed
  | .held .waiting (some r) => (later? now r.toNat).map fun d => .waiting (some d)
  | .held .waiting none => some (.waiting none)
  | p => some p

/-- Whether every HELD slot concerned can be released (R38). -/
def State.canRelease (r : Request) (s : State) : Bool :=
  (s.slotsToRelease r).all fun n =>
    match s.slots[n].arming with
    | none => true
    | some a => (a.phase.release? s.time.now).isSome

/-- One slot returns to its held-from state (part 2 of R38). -/
def releaseSlot (n : SlotNumber) (s : State) : State :=
  s.putArming n (s.slots[n].arming.map fun a => { a with phase := (a.phase.release? s.time.now).getD a.phase })

/-- The slots concerned that return with a remaining time of 0, which part 3 of R38 takes at once. -/
def State.releasedAtOnce (r : Request) (s : State) : List SlotNumber :=
  (s.slotsToRelease r).filter fun n => s.slots[n].arming.bind (·.phase.heldTime) == some 0

/-- RELEASE as the slot table takes it: group entries, returns, then every slot whose deadline is now (R38; log 15). -/
def takeRelease (r : Request) (s : State) : State × Answer :=
  if s.canRelease r then
    (takeDue ((s.slotsToRelease r).foldl (fun t n => releaseSlot n t) (setGroups r .running s)),
      .plain .ok (BitVec.ofNat 64 (s.slotsToRelease r).length) (BitVec.ofNat 64 (s.releasedAtOnce r).length))
  else (s, .plain .timeRange s.time.now 0)

/-- RELEASE (R38). -/
def execRelease (r : Request) (s : State) : Host.Outcome State Fault Refusal :=
  .next (s.arrive (engineTakes .release r takeRelease))

/-! ## QUERY_SLOT (R40) -/

/-- QUERY_SLOT as the slot table takes it (R40). -/
def takeQuerySlot (r : Request) (s : State) : State × Answer :=
  match slot? r with
  | none => missingSlot s
  | some n => (s, s.answerSlot n .ok s.slots[n].timeAnswer (queryValue s.slots[n]) (s.slotPending n))

/-- QUERY_SLOT (R40). -/
def execQuerySlot (r : Request) (s : State) : Host.Outcome State Fault Refusal :=
  .next (s.arrive (engineTakes .querySlot r takeQuerySlot))

end Sys2Proof.Machine
end

