-- ==== Sys2Proof/Machine/Guards.lean ====
section
/-! DEFINITION. RENEW (spec/06_guard_slots.md, 6.3). The warning and fault steps stand with the expiries. -/

namespace Sys2Proof.Machine

/-- A renewal inside the window: W is not 0 and now is earlier than the last renew time plus W, as a whole number
(case 4 of R96). -/
def GuardPart.isEarly (g : GuardPart) (now : Time) : Bool :=
  g.window != 0 && decide (now.toNat < g.lastRenew.toNat + g.window.toNat)

/-- An early renewal advances the guard one stage; it is never late and keeps the last renew time (R97). -/
def escalate (n : SlotNumber) (a : Arming) (g : GuardPart) (s : State) : State :=
  match g.stage with
  | .normal => guardWarnStep n a g false true s
  | .warned => guardFaultStep n a g { early := true } s

/-- Value A after an early renewal: the new deadline, or 0 after a fault step (R98). -/
def State.deadlineAnswer (n : SlotNumber) (s : State) : BitVec 64 := (s.slots[n].deadline?).getD 0

/-- A renewal of a guard that is not stale: early, out of range, or on time (cases 4 to 6 of R96). -/
def renewGuard (n : SlotNumber) (a : Arming) (g : GuardPart) (s : State) : State × Answer :=
  if g.isEarly s.time.now then
    (escalate n a g s,
      (escalate n a g s).answerSlot n .earlyRenew ((escalate n a g s).deadlineAnswer n) (codeValue g.stage.code)
        ((escalate n a g s).slotPending n))
  else
    match later? s.time.now g.period.toNat with
    | none => (s, s.answerSlot n .timeRange s.time.now 0 (s.slotPending n))
    | some d =>
      (s.putArming n (some
          { a with part := .guard { g with stage := .normal, lastRenew := s.time.now }, phase := .armed d }),
        s.answerSlot n .ok d (codeValue g.stage.code) (s.slotPending n))

/-- RENEW as the slot table takes it, the first case that applies deciding (R96, R98). -/
def takeRenew (r : Request) (s : State) : State × Answer :=
  match slot? r with
  | none => missingSlot s
  | some n =>
    if isStale r n s then (s, s.answerSlot n .stale (codeValue s.slots[n].stateCode) 0 (s.slotPending n))
    else
      match s.slots[n].arming with
      | none => (s, s.answerSlot n .notArmed (codeValue s.slots[n].stateCode) 0 (s.slotPending n))
      | some a =>
        match a.part with
        | .guard g => renewGuard n a g s
        | _ => (s, s.answerSlot n .wrongMode (codeValue s.slots[n].stateCode) 0 (s.slotPending n))

/-- RENEW (R96). -/
def execRenew (r : Request) (s : State) : Host.Outcome State Fault Refusal :=
  .next (s.arrive (engineTakes .renew r takeRenew))

end Sys2Proof.Machine
end

