-- ==== Sys2Proof/Machine/Completion.lean ====
section
/-! DEFINITION. The completion writer (spec/10_completion_ring_reports_and_interrupts.md): COMPLETE_HEAD, arbitration, the issue
and the end of completion writes, FENCE, interrupt moderation and the interrupt registers. -/

namespace Sys2Proof.Machine

/-! ## Ring indices (R147, R148) -/

/-- The distance from one ring index to another, modulo the ring size. -/
def ringDistance (size a b : Nat) : Nat := (b + size - a) % size

/-- The ring is full: no further record may be written (R147). -/
def CompletionWriter.full (w : CompletionWriter) : Bool := (w.writeIndex + 1) % w.entries == w.completeHead

/-- Whether a write of COMPLETE_HEAD releases written records and no others (R148). -/
def CompletionWriter.accepts (w : CompletionWriter) (value : Nat) : Bool :=
  decide (value < w.entries
    ∧ ringDistance w.entries w.completeHead value ≤ ringDistance w.entries w.completeHead w.writeIndex)

/-- COMPLETE_HEAD_WRITE: accepted, or ignored with HEAD_RANGE set (R148). -/
def execCompleteHeadWrite (value : BitVec 32) (s : State) : Host.Outcome State Fault Refusal :=
  .next (if s.writer.accepts value.toNat then s.withWriter { s.writer with completeHead := value.toNat }
    else s.withControl { s.control with headRange := true })

/-- INT_CAUSE_WRITE: each cause written with 1 is cleared, bits beyond the three are ignored (R163). -/
def execIntCauseWrite (value : BitVec 32) (s : State) : Host.Outcome State Fault Refusal :=
  .next (s.withControl { s.control with intCause := s.control.intCause &&& ~~~ value.extractLsb' 0 3 })

/-! ## Interrupt moderation (R164) -/

/-- The COMPLETION cause is set, the count becomes 0 and the delay timer stops (R164). -/
def signalCompletion (s : State) : State :=
  (s.withWriter { s.writer with moderationCount := 0, delayTimer := none }).setCause intCompletion

/-- An acknowledged write is counted (R164). -/
def countRecord (s : State) : State :=
  let count := s.writer.moderationCount + 1
  if s.writer.threshold.toNat ≤ count then signalCompletion s
  else s.withWriter
    { s.writer with
      moderationCount := count
      delayTimer := if s.writer.moderationCount = 0 ∧ s.writer.delay ≠ 0 then some s.writer.delay.toNat
        else s.writer.delayTimer }

/-- A tick counts the delay timer down (R164). -/
def tickDelay (s : State) : State :=
  s.withWriter { s.writer with delayTimer := s.writer.delayTimer.map (· - 1) }

/-- The expiry of the delay timer, if it has run out (R164). -/
def moderationExpiry (s : State) : State := if s.writer.delayTimer = some 0 then signalCompletion s else s

/-- MODERATION_DELAY_EXPIRY (R164). A timer that is stopped or still runs does not expire (log 6). -/
def execModerationDelayExpiry (s : State) : Host.Outcome State Fault Refusal := .next (moderationExpiry s)

/-! ## Arbitration (R153, R154, R161) -/

/-- A held response that takes part in arbitration: a FENCE response does so when its mark has reached 0 (R161). -/
def State.eligibleResponse (s : State) : Option HeldResponse :=
  match s.held with
  | none => none
  | some h => if h.kind = .fence ∧ s.writer.fenceMark ≠ some 0 then none else some h

/-- Whether the held response keeps its precedence at a fairness count of 4: it answers an accepted ARM of the slot at
the head of the queue (R154). -/
def HeldResponse.precedes (h : HeldResponse) (head : Source) : Bool :=
  match h.kind with
  | .acceptedArm n => head == .slot n
  | _ => false

/-- The choice between the two sources (R154): some response, some report, or nothing to write. -/
inductive Choice
  | nothing
  | response (held : HeldResponse)
  | report (source : Source)
  deriving DecidableEq, Repr

/-- What the completion writer writes next (R154). -/
def State.choose (s : State) : Choice :=
  match s.eligibleResponse, s.writer.queue.head? with
  | none, none => .nothing
  | some h, none => .response h
  | none, some src => .report src
  | some h, some src => if s.writer.fairness = 4 ∧ h.precedes src = false then .report src else .response h

/-- The controller states in which the completion writer writes (R153). -/
def ControllerState.writes : ControllerState → Bool
  | .halted => false
  | .loading => false
  | .running => true
  | .pausing => true
  | .paused => true
  | .faulted => false

/-- The address of the next entry of the completion ring (R147). DESIGN CHOICE (log 37): the sum wraps modulo 2^64, where
the specification states no address. -/
def CompletionWriter.address (w : CompletionWriter) : BitVec 64 := w.base + BitVec.ofNat 64 (32 * w.writeIndex)

/-- The write of a record, as it stands in flight (R149, R153). -/
def State.writeOf (source : WriteSource) (record : CompletionRecord) (s : State) : CompletionWrite :=
  { source := source
    index := s.writer.writeIndex
    sequence := s.writer.nextSequence
    address := s.writer.address
    contents := encodeCompletion record
    reportsWaited := !s.writer.queue.isEmpty
    eventNoted := false
    cancelNoted := false }

/-- The generation a report carries: the slot's, or 0 for the controller entry (R156). -/
def State.reportGeneration (source : Source) (s : State) : BitVec 16 :=
  match source with
  | .slot n => s.slots[n].generation
  | .controller => 0

/-- Report fields emptied at the issue of their write; event time and tag are kept (R156). -/
def ReportFields.issued (f : ReportFields) : ReportFields := { f with event := none, count := 0, flags := {} }

/-- The issue of a response write: the response stays held (R153). -/
def issueResponse (h : HeldResponse) (s : State) : State :=
  s.withWriter { s.writer with inFlight := some (s.writeOf .response (h.record s.writer.nextSequence)) }

/-- The issue of a report write: the record is formed and the source's fields are emptied (R156). -/
def issueReport (source : Source) (s : State) : State :=
  let fields := (s.report source).fields
  let record := reportRecord source fields (s.reportGeneration source) s.fetch.head s.writer.nextSequence
  let issued := s.withWriter { s.writer with inFlight := some (s.writeOf (.report source fields) record) }
  issued.putReport source { s.report source with fields := fields.issued }

/-- COMPLETION_WRITE_ISSUE: a write is issued when all the conditions hold (R153). -/
def execCompletionWriteIssue (s : State) : Host.Outcome State Fault Refusal :=
  .next (if s.control.state.writes ∧ s.writer.inFlight = none ∧ s.writer.full = false then
      match s.choose with
      | .nothing => s
      | .response h => issueResponse h s
      | .report source => issueReport source s
    else s)

/-! ## The end of a write (R149, R154, R157 to R159) -/

/-- The part of an acknowledgement common to both kinds of record: the indices advance, the fairness count and the fence
mark are kept up (R149, R154, R157, R158). -/
def CompletionWriter.acknowledge (fairness : Nat) (fenceMark : Option Nat) (w : CompletionWriter) : CompletionWriter :=
  { w with
    inFlight := none
    writeIndex := (w.writeIndex + 1) % w.entries
    nextSequence := w.nextSequence + 1
    fairness := fairness
    fenceMark := fenceMark }

/-- One abandoned write has ended; its acknowledgement or error is dropped (R129). -/
def dropWriteEnd (s : State) : State := s.withWriter { s.writer with abandoned := s.writer.abandoned - 1 }

/-- The report of a source after the acknowledgement of its write: PENDING with its fields when the note of the write says
so, and else NONE, with what was coalesced during the write (R157), or with empty fields when nothing was (R32; log 36). -/
def Report.acknowledged (rejoins : Bool) (r : Report) : Report :=
  if rejoins then { r with state := .pending }
  else if r.fields.event = none then .empty
  else { r with state := .none }

/-- The source of an acknowledged report leaves the head of the queue, and joins the tail again when the note of the
write says so (R157). -/
def leaveQueue (source : Source) (rejoins : Bool) (s : State) : State :=
  let left := (s.withWriter { s.writer with queue := s.writer.queue.erase source }).putReport source
    ((s.report source).acknowledged rejoins)
  if rejoins then left.enqueue source else left

/-- The acknowledgement of a report write (R157). -/
def acknowledgeReport (source : Source) (w : CompletionWrite) (s : State) : State :=
  countRecord (leaveQueue source (w.eventNoted || w.cancelNoted)
    (s.withWriter (s.writer.acknowledge 0 (s.writer.fenceMark.map (· - 1)))))

/-- REPORT_WRITE_ACK (R157). Without a report write in flight nothing is acknowledged (log 6). -/
def execReportWriteAck (access : Access) (s : State) : Host.Outcome State Fault Refusal :=
  .next (match access with
    | .abandoned => dropWriteEnd s
    | .own =>
      match s.writer.inFlight with
      | none => s
      | some w =>
        match w.source with
        | .response => s
        | .report source _ => acknowledgeReport source w s)

/-- The fairness count after a response write is acknowledged (R154). -/
def nextFairness (w : CompletionWrite) (fairness : Nat) : Nat :=
  if w.reportsWaited then min 4 (fairness + 1) else 0

/-- Whether the held response answers a FENCE (R158). -/
def State.holdsFence (s : State) : Bool :=
  match s.held with
  | none => false
  | some h => h.kind == .fence

/-- The acknowledgement of a response write: the response leaves the request engine (R145, R158). -/
def acknowledgeResponse (w : CompletionWrite) (s : State) : State :=
  countRecord (((s.withWriter (s.writer.acknowledge (nextFairness w s.writer.fairness)
    (if s.holdsFence then none else s.writer.fenceMark))).withHeld none).settlePause)

/-- RESPONSE_WRITE_ACK (R158). Without a response write in flight nothing is acknowledged (log 6). -/
def execResponseWriteAck (access : Access) (s : State) : Host.Outcome State Fault Refusal :=
  .next (match access with
    | .abandoned => dropWriteEnd s
    | .own =>
      match s.writer.inFlight with
      | none => s
      | some w =>
        match w.source with
        | .response => acknowledgeResponse w s
        | .report _ _ => s)

/-- The sum of two counts, saturating at 65,535 (R159). -/
def saturatingAdd (a b : BitVec 16) : BitVec 16 := BitVec.ofNat 16 (min 65535 (a.toNat + b.toNat))

/-- The contents formed at the issue, coalesced back under the present fields (R159). -/
def ReportFields.restore (formed present : ReportFields) : ReportFields :=
  { event := present.event.or formed.event
    time := if present.event.isSome then present.time else formed.time
    tag := if present.event.isSome then present.tag else formed.tag
    count := saturatingAdd formed.count present.count
    flags := (formed.flags.union present.flags).union
      { saturated := decide (65535 < formed.count.toNat + present.count.toNat) } }

/-- The completion writer leaves the record of a failed write at its source (R159). -/
def returnRecord (w : CompletionWrite) (s : State) : State :=
  let ended := s.withWriter { s.writer with inFlight := none }
  match w.source with
  | .response => ended
  | .report source formed =>
    ended.putReport source { s.report source with fields := formed.restore (s.report source).fields }

/-- COMPLETION_WRITE_ERROR: the record stays at its source, and in the writing states the controller enters FAULTED
(R127, R159). -/
def execCompletionWriteError (access : Access) (s : State) : Host.Outcome State Fault Refusal :=
  .next (match access with
    | .abandoned => dropWriteEnd s
    | .own =>
      match s.writer.inFlight with
      | none => s
      | some w =>
        if s.control.state.writes then (returnRecord w s).enterFaulted .completionWrite else returnRecord w s)

/-! ## FENCE (R160) -/

/-- FENCE as the completion writer takes it: the mark counts the entries of the report queue (R160). -/
def takeFence (_ : Request) (s : State) : State × Answer :=
  (s.withWriter { s.writer with fenceMark := some s.writer.queue.length },
    .plain .ok (BitVec.ofNat 64 s.writer.queue.length) 0)

/-- FENCE (R160). -/
def execFence (r : Request) (s : State) : Host.Outcome State Fault Refusal :=
  .next (s.arrive (engineTakes .fence r takeFence))

end Sys2Proof.Machine
end

