-- ==== Sys2Proof/Config.lean ====
section
/-! DEFINITION. What the specification leaves without a value. Nothing else is configurable: the configuration
block is state, not configuration. -/

namespace Sys2Proof

/-- FREE VALUE (DESIGN CHOICE, log 16): the qualified level that a CONFIG_INPUT answers for a line that has not been
sampled since power-on. R79 says the first CONFIG_INPUT finds the level set by the first sample, so no device reaches
this case; the argument is the count of free values drawn before. -/
opaque Config.unsampledLevel : Nat → BitVec 1

end Sys2Proof
end

