-- ==== Sys2Proof/Machine/Inputs.lean ====
section
/-! DEFINITION. Input lines and edge waits (spec/05_input_lines_and_edge_waits.md): samples and the filter, edges and their
offers, the trip-level status, EDGE and CONFIG_INPUT. -/

namespace Sys2Proof.Machine

/-! ## Samples (R75, R76) -/

/-- The filter's candidate after a sample that differs from the qualified level (cases 2 and 3 of R76). -/
def nextCandidate (level : Bool) (c : Option Candidate) : Candidate :=
  match c with
  | none => { level := level, count := 0 }
  | some c => { c with count := c.count + 1 }

/-- The sample of one line at a tick: the first sets both levels (R75), the others go through the filter (R76). -/
def InputLine.sample (level : Bool) (l : InputLine) : InputLine :=
  match l.qualified with
  | none => { l with raw := some level, qualified := some level }
  | some q =>
    if level = q then { l with raw := some level, candidate := none }
    else { l with raw := some level, candidate := some (nextCandidate level l.candidate) }

/-- A candidate that has reached the filter length: its acceptance, the EDGE, is due (R76; log 7). -/
def InputLine.acceptable (l : InputLine) : Option Bool :=
  match l.candidate with
  | none => none
  | some c => if l.filter.toNat ≤ c.count then some c.level else none

/-! ## Trip-level status (R78) -/

/-- Whether a line stands at its trip level (R78). -/
def InputLine.atTripLevel (l : InputLine) : Bool :=
  match l.tripLevel with
  | .none => false
  | .high => l.qualified == some true
  | .low => l.qualified == some false

/-- Set the record of an input line. -/
def State.putInput (n : InputNumber) (l : InputLine) (s : State) : State := s.withInputs (s.inputs.set n l)

/-- The trip unit takes "input n INACTIVE": the cause leaves the set and nothing else changes (R104). -/
def State.dropInputCause (n : InputNumber) (s : State) : State :=
  s.withTrip { s.trip with inputCauses := s.trip.inputCauses &&& ~~~ inputBit n }

/-- The trip-level status of a line is re-evaluated, and a change is handed to the trip unit (R78, R104). -/
def State.reevaluate (n : InputNumber) (s : State) : State :=
  let l := s.inputs[n]
  if l.atTripLevel = l.active then s
  else if l.atTripLevel then (s.putInput n { l with active := true }).raise (.input n)
  else (s.putInput n { l with active := false }).dropInputCause n

/-! ## Edges (R77, R82 to R85, R89) -/

/-- Whether a slot's edge select matches an edge to a level (R82). -/
def EdgeSelect.takes (e : EdgeSelect) (level : Bool) : Bool :=
  match e with
  | .rise => level
  | .fall => !level
  | .any => true

/-- The edge part of a slot that takes an edge to `level` on line `n`: WAITING, on that line, edge select matching
(R82). -/
def Arming.takesEdge? (n : InputNumber) (level : Bool) (a : Arming) : Option EdgePart :=
  match a.phase, a.part with
  | .waiting _, .waitEdge p => if p.input = n ∧ p.select.takes level = true then some p else none
  | _, _ => none

/-- A CAPTURE is recorded with the edge time as its event time (part 5 of R84; R89). -/
def State.recordCapture (n : SlotNumber) (a : Arming) (edgeTime : Time) (flags : ReportFlags) (s : State) : State :=
  s.recordEvent (.slot n) { event := .capture, time := edgeTime, tag := a.tag, flags := flags }
    (a.policy.makesPending .capture flags)

/-- A capture: a slot without an after-edge delay takes an edge (R84, R89). -/
def captureEdge (n : SlotNumber) (a : Arming) (p : EdgePart) (edgeTime : Time) (s : State) : State :=
  let after := waitAgain a { p with lastCapture := some edgeTime } edgeTime
  ((s.performAction a.action).putArming n after).recordCapture n a edgeTime
    ((s.actionOutcome a.action).flags.union { final := after.isNone })

/-- A slot with an after-edge delay takes an edge: it is ARMED until the delay's deadline, and ends with a CAPTURE when
that deadline cannot be placed (R85, R89). -/
def startDelay (n : SlotNumber) (a : Arming) (p : EdgePart) (delay : BitVec 32) (edgeTime : Time) (s : State) : State :=
  match later? edgeTime delay.toNat with
  | some d =>
    s.putArming n (some
      { a with part := .waitEdge { p with lastCapture := some edgeTime }, phase := .armed d })
  | none => (s.putArming n none).recordCapture n a edgeTime { final := true }

/-- One offer of an edge, taken whole on its slot as the offer finds it (R82). "Now" is the edge time in R84, R85 and R89,
so all slots that take an edge record the same one, also when a time step has come between two of their offers. A deadline
measured from it that such a step has already passed is taken at its insertion (R46; log 38). -/
def offerEdge (line : InputNumber) (e : EdgeUnderWay) (n : SlotNumber) (s : State) : State :=
  match s.slots[n].arming with
  | none => s
  | some a =>
    match a.takesEdge? line e.level with
    | none => s
    | some p =>
      match p.delay with
      | none => takeAtInsertion n (captureEdge n a p e.time s)
      | some d => takeAtInsertion n (startDelay n a p d e.time s)

/-- The offers of an edge that are still to be made to slots below `bound`, in ascending slot number (R82). -/
def offerRange (line : InputNumber) (e : EdgeUnderWay) (bound : Fin 257) (s : State) : State :=
  (slotsWhere fun n => decide (e.next.val ≤ n.val) && decide (n.val < bound.val)).foldl
    (fun t n => offerEdge line e n t) s

/-- What is left of an edge: nothing once all offers are made and the trip-level status has been re-evaluated. -/
def EdgeUnderWay.left? (e : EdgeUnderWay) : Option EdgeUnderWay :=
  if e.next = Fin.last 256 ∧ e.statusDue = false then none else some e

/-- Note how far the edge of a line has come. -/
def State.putEdge (n : InputNumber) (e : EdgeUnderWay) (s : State) : State :=
  s.putInput n { s.inputs[n] with edge := e.left? }

/-- A candidate at its full count is accepted: the qualified level changes, the candidate is removed and an edge is
produced, its edge time being device time (R77). A line whose edge is still under way goes on with that edge
(log 7). -/
def beginEdge (n : InputNumber) (s : State) : State :=
  let l := s.inputs[n]
  match l.edge, l.acceptable with
  | some _, _ => s
  | none, none => s
  | none, some level =>
    s.putInput n { l with
      qualified := some level, candidate := none
      edge := some { level := level, time := s.time.now, next := 0, statusDue := true } }

/-- The offers still to be made below a bound are made (R82). -/
def offersOfEdge (n : InputNumber) (bound : Fin 257) (s : State) : State :=
  match s.inputs[n].edge with
  | none => s
  | some e => offerRange n e bound (s.putEdge n { e with next := max e.next bound })

/-- The trip-level status takes the edge, unless it has done so before (R77, R78). -/
def statusOfEdge (n : InputNumber) (s : State) : State :=
  match s.inputs[n].edge with
  | none => s
  | some e => if e.statusDue then (s.putEdge n { e with statusDue := false }).reevaluate n else s

/-- A share of an edge is taken, after the acceptance where the edge has not been produced yet (R77, R82). -/
def takeEdge (n : InputNumber) (share : EdgeShare) (s : State) : State :=
  let begun := beginEdge n s
  match share with
  | .slotsFirst => statusOfEdge n (offersOfEdge n (Fin.last 256) begun)
  | .statusFirst => offersOfEdge n (Fin.last 256) (statusOfEdge n begun)
  | .offersBelow bound => offersOfEdge n bound begun
  | .status => statusOfEdge n begun

/-- EDGE (R77, R82). With no edge under way and no candidate at its full count, no edge is produced (log 6). -/
def execEdge (n : InputNumber) (share : EdgeShare) (s : State) : Host.Outcome State Fault Refusal :=
  .next (takeEdge n share s)

/-! ## CONFIG_INPUT (R79, R80) -/

/-- The record under a new filter length and trip level. The candidate is discarded. A candidate whose acceptance is
due shows that the sample of this tick is not yet taken whole: taken after the CONFIG_INPUT, as R80 gives it, the sample
makes a new candidate with stable count 0 (log 8). -/
def InputLine.configure (filter : BitVec 8) (level : TripLevel) (l : InputLine) : InputLine :=
  { l with
    filter := filter
    tripLevel := level
    candidate := l.acceptable.map fun sample => { level := sample, count := 0 } }

/-- The qualified level a CONFIG_INPUT answers, a free value before the first sample (R79; log 16). -/
def qualifiedAnswer (l : InputLine) (free : Nat) : BitVec 64 :=
  match l.qualified with
  | some level => boolValue level
  | none => 0#63 ++ Config.unsampledLevel free

/-- The count of free values drawn goes up where an unsampled line is answered (log 16). -/
def State.drawFree (l : InputLine) (s : State) : State :=
  if l.qualified.isNone then s.withFreeCount (s.freeCount + 1) else s

/-- CONFIG_INPUT as the input line unit takes it (R79). An acceptance whose status is still to be re-evaluated belongs to a
sample taken before the CONFIG_INPUT, so its status is taken first, under the old trip level (R80). -/
def takeConfigInput (r : Request) (s : State) : State × Answer :=
  match input? r.inputLine, TripLevel.ofCode? r.tripLevel with
  | some n, some level =>
    let settled := statusOfEdge n s
    let t := (settled.putInput n (settled.inputs[n].configure r.filterLength level)).reevaluate n
    (t.drawFree t.inputs[n],
      .plain .ok (qualifiedAnswer t.inputs[n] s.freeCount) (boolValue t.inputs[n].active))
  | _, _ => (s, .refusal .badField)

/-- CONFIG_INPUT (R79). -/
def execConfigInput (r : Request) (s : State) : Host.Outcome State Fault Refusal :=
  .next (s.arrive (engineTakes .configInput r takeConfigInput))

end Sys2Proof.Machine
end

