-- ==== Sys2Proof/Machine/Lines.lean ====
section
/-! DEFINITION. Output lines (spec/04_output_lines.md): pulse ends, the LINE request and the masks of a configuration load. -/

namespace Sys2Proof.Machine

/-! ## Pulse ends (R66) -/

/-- A drive whose pulse end has come due: driven to the end level, the pulse end removed (R66). -/
def Drive.endPulse (now : Time) (d : Drive) : Drive :=
  match d.pulseEnd with
  | none => d
  | some e => if e.time ≤ now then { level := e.level, pulseEnd := none } else d

/-- A line after its due pulse end, if it has one, is taken (R66). -/
def OutputLine.endPulse (now : Time) (l : OutputLine) : OutputLine :=
  { l with drive := l.drive.map (Drive.endPulse now) }

/-- The pulse end of one line is taken if it is due (R66). -/
def takePulseEnd (n : LineNumber) (s : State) : State :=
  s.withLines (s.lines.set n (s.lines[n].endPulse s.time.now))

/-- Every due pulse end is taken; they concern different records (R13, R66). -/
def takePulseEnds (s : State) : State := s.withLines (s.lines.map (OutputLine.endPulse s.time.now))

/-- PULSE_END (R66). A line without a pulse end that has come due is not changed (log 6). -/
def execPulseEnd (n : LineNumber) (s : State) : Host.Outcome State Fault Refusal := .next (takePulseEnd n s)

/-! ## LINE (R67) -/

/-- The width of a pulse action; none for the other kinds. -/
def ActionKind.width? : ActionKind → Option (BitVec 32)
  | .set => none
  | .clear => none
  | .toggle => none
  | .pulseHigh w => some w
  | .pulseLow w => some w

/-- A pulse whose end time would lie beyond 2^64 - 1 (R65). -/
def pulseOutOfRange (k : ActionKind) (now : Time) : Bool :=
  match k.width? with
  | none => false
  | some w => (later? now w.toNat).isNone

/-- The end time answered for a pulse; 0 for the other kinds (R67). -/
def pulseEndAnswer (k : ActionKind) (now : Time) : BitVec 64 :=
  match k.width? with
  | none => 0
  | some w => (later? now w.toNat).getD 0

/-- LINE as the output line unit takes it, the first case that applies deciding (R67). -/
def takeLine (r : Request) (s : State) : State × Answer :=
  match action? r with
  | none => (s, .refusal .badField)
  | some a =>
    match s.lines[a.line].drive with
    | none => (s, .refusal .badLine)
    | some d =>
      if s.lineTripped a.line then (s, .plain .lineTripped (boolValue d.level) 0)
      else if pulseOutOfRange a.kind s.time.now then (s, .plain .timeRange s.time.now 0)
      else
        (s.putDrive a.line (some (d.apply a.kind s.time.now)),
          .plain .ok (boolValue (d.apply a.kind s.time.now).level) (pulseEndAnswer a.kind s.time.now))

/-- LINE (R67). -/
def execLine (r : Request) (s : State) : Host.Outcome State Fault Refusal :=
  .next (s.arrive (engineTakes .line r takeLine))

/-! ## Configuration loads (R72 to R74) -/

/-- The level an enabled line takes at a first application, and a newly enabled one at a reload: the safe level while
TRIPPED if it participates, else the default level (R73, R74). -/
def loadLevel (default safe participates tripped : Bool) : Bool := if participates && tripped then safe else default

/-- What an enabled line drives after an application. A line that stays enabled through a reload keeps its level and its
pulse end, unless it is held at its safe level (R74). -/
def loadDrive (present tripped default safe participates : Bool) (before : Option Drive) : Drive :=
  match before with
  | some d =>
    if present && !(participates && tripped) then d
    else { level := loadLevel default safe participates tripped, pulseEnd := none }
  | none => { level := loadLevel default safe participates tripped, pulseEnd := none }

/-- The record of line `n` after the masks of a block are applied (R73, R74). -/
def OutputLine.load (b : ConfigBlock) (present tripped : Bool) (n : LineNumber) (l : OutputLine) : OutputLine :=
  { drive :=
      if b.enableMask.getLsbD n.val then
        some (loadDrive present tripped (b.defaultMask.getLsbD n.val) (b.safeMask.getLsbD n.val)
          (b.participateMask.getLsbD n.val) l.drive)
      else none
    defaultLevel := b.defaultMask.getLsbD n.val
    safeLevel := b.safeMask.getLsbD n.val
    participates := b.participateMask.getLsbD n.val }

/-- The four masks applied in one claim over all sixteen records, which sets configuration present (R72). -/
def applyMasks (b : ConfigBlock) (s : State) : State :=
  (s.withLines (Vector.ofFn fun n =>
    s.lines[n].load b s.configurationPresent (s.trip.state == .tripped) n)).withConfigurationPresent true

end Sys2Proof.Machine
end

