-- ==== Sys2Proof/Machine/TimeBase.lean ====
section
/-! DEFINITION. The time base (spec/01_device_time.md): TICK, READ_TIME, STEP_TIME and SET_TIME. -/

namespace Sys2Proof.Machine

/-! ## The tick (R1 to R5) -/

/-- The edges still due or under way are taken to their end, line by line (log 5). -/
def finishEdges (s : State) : State :=
  (List.finRange 8).foldl (fun t n => takeEdge n .slotsFirst t) s

/-- What the tick before has brought due and no command has taken is taken before the next tick: expiries, pulse ends,
edges, the moderation delay. The specification orders none of the four before another (R1); a sender who wants another
order commands it (log 5). -/
def finishTick (s : State) : State := moderationExpiry (finishEdges (takePulseEnds (takeDue s)))

/-- Device time at a tick by its counting state (R3, R5). -/
def TimeBase.advance (t : TimeBase) : TimeBase :=
  match t.counting with
  | .stopped => t
  | .ended => t
  | .counting =>
    if t.now = endOfTime then { t with counting := .ended }
    else if t.now + 1 = endOfTime then { t with now := t.now + 1, counting := .ended }
    else { t with now := t.now + 1 }

/-- A tick of the time base: the phase returns to 0, the next tick has the length of the divider in force, device time
advances (R1, R2, R3). -/
def TimeBase.tick (t : TimeBase) : TimeBase := { t.advance with phase := 0, tickLength := t.divider }

/-- Every input line is sampled (R75). -/
def sampleInputs (pins : BitVec 8) (s : State) : State :=
  s.withInputs (Vector.ofFn fun n => s.inputs[n].sample (pins.getLsbD n.val))

/-- The tick itself: the time base, then the sample of the pins and the count of the delay timer (R1). -/
def beginTick (pins : BitVec 8) (s : State) : State := tickDelay (sampleInputs pins (s.withTime s.time.tick))

/-- TICK (R1). -/
def execTick (pins : BitVec 8) (s : State) : Host.Outcome State Fault Refusal := .next (beginTick pins (finishTick s))

/-- A REFCLK period passes that does not complete the tick in progress; the one that completes it is TICK (R1; log 3). -/
def refclkPeriod (s : State) : State :=
  s.withTime { s.time with phase := if s.time.phase + 1 < s.time.tickLength then s.time.phase + 1 else s.time.phase }

/-! ## Reading device time (R7) -/

/-- READ_TIME as the time base takes it (R7). -/
def takeReadTime (_ : Request) (s : State) : State × Answer :=
  (s, .plain .ok s.time.now (BitVec.ofNat 64 s.time.divider))

/-- READ_TIME (R7). -/
def execReadTime (r : Request) (s : State) : Host.Outcome State Fault Refusal :=
  .next (s.arrive (engineTakes .readTime r takeReadTime))

/-! ## Time steps (R8 to R15) -/

/-- Whether a step moves the deadline of an arming: a guard's and a REL slot's (R11). -/
def Arming.movesWithStep (a : Arming) : Bool :=
  match a.part with
  | .guard _ => true
  | _ => a.anchoring == .rel

/-- The deadline a step would move (R11). -/
def Slot.movedDeadline? (sl : Slot) : Option Time :=
  match sl.arming with
  | none => none
  | some a => if a.movesWithStep then a.deadline? else none

/-- The pending pulse end of a line. -/
def OutputLine.pulseEnd? (l : OutputLine) : Option PulseEnd := l.drive.bind (·.pulseEnd)

/-- A value that a step moves, if there is one, stays in range (R10). -/
def staysInRange (t : Option Time) (k : Int) : Bool :=
  match t with
  | none => true
  | some t => (moved? t k).isSome

/-- The range check of a step, made on all the values before any of them changes (R10). -/
def stepInRange (k : Int) (s : State) : Bool :=
  (moved? s.time.now k).isSome
    && s.slots.all (fun sl => staysInRange sl.movedDeadline? k)
    && s.lines.all (fun l => staysInRange (l.pulseEnd?.map (·.time)) k)

/-- A time moved by a step that has passed its range check. -/
def stepped (t : Time) (k : Int) : Time := (moved? t k).getD t

/-- A last renew time moved by a step, not below 0 (R12). -/
def movedRenew (t : Time) (k : Int) : Time := BitVec.ofNat 64 ((t.toNat : Int) + k).toNat

/-- The phase of an arming whose deadline a step moves (R11). -/
def Phase.step (k : Int) (p : Phase) : Phase :=
  match p with
  | .armed d => .armed (stepped d k)
  | .waiting t => .waiting (t.map (stepped · k))
  | .held o r => .held o r

/-- The mode part under a step: the last renew time of a guard moves (R12). -/
def ModePart.step (k : Int) (p : ModePart) : ModePart :=
  match p with
  | .once => .once
  | .repeating p => .repeating p
  | .guard g => .guard { g with lastRenew := movedRenew g.lastRenew k }
  | .waitEdge p => .waitEdge p

/-- An arming under a step (R11, R12). -/
def Arming.step (k : Int) (a : Arming) : Arming :=
  { a with
    part := a.part.step k
    phase := if a.movesWithStep then a.phase.step k else a.phase }

/-- A slot under a step (R11, R12). -/
def Slot.step (k : Int) (sl : Slot) : Slot := { sl with arming := sl.arming.map (Arming.step k) }

/-- A pulse end under a step (R13). -/
def PulseEnd.step (k : Int) (e : PulseEnd) : PulseEnd := { e with time := stepped e.time k }

/-- A drive under a step (R13). -/
def Drive.step (k : Int) (d : Drive) : Drive := { d with pulseEnd := d.pulseEnd.map (PulseEnd.step k) }

/-- A line under a step (R13). -/
def OutputLine.step (k : Int) (l : OutputLine) : OutputLine := { l with drive := l.drive.map (Drive.step k) }

/-- Device time takes its new value, and the counting state follows (part 1 of R15; R5). -/
def TimeBase.step (k : Int) (t : TimeBase) : TimeBase :=
  { t with
    now := stepped t.now k
    counting := if stepped t.now k = endOfTime then .ended else if t.counting = .ended then .counting else t.counting }

/-- Parts 1 to 3 of R15 and the reordering of the list: device time, deadlines, pulse ends. -/
def moveTime (k : Int) (s : State) : State :=
  let slots := s.slots.map (Slot.step k)
  takePulseEnds
    ((((s.withTime (s.time.step k)).withSlots slots).withLines (s.lines.map (OutputLine.step k))).withDeadlineList
      (sortDeadlines slots s.deadlineList))

/-- An accepted or refused step by an offset (R8, R10, R14, R15). -/
def stepBy (k : Int) (s : State) : State × Answer :=
  if stepInRange k s then
    (takeDue (moveTime k s),
      .plain .ok (takeDue (moveTime k s)).time.now (BitVec.ofNat 64 (moveTime k s).dueSlots.length))
  else (s, .plain .timeRange s.time.now 0)

/-- STEP_TIME as the time base takes it: the time value is a signed offset (R8). -/
def takeStepTime (r : Request) (s : State) : State × Answer := stepBy r.timeValue.toInt s

/-- STEP_TIME (R8). -/
def execStepTime (r : Request) (s : State) : Host.Outcome State Fault Refusal :=
  .next (s.arrive (engineTakes .stepTime r takeStepTime))

/-- SET_TIME as the time base takes it: a step of the whole difference, or nothing where there is none (R9). -/
def takeSetTime (r : Request) (s : State) : State × Answer :=
  if r.timeValue = s.time.now then (s, .plain .ok s.time.now 0)
  else stepBy ((r.timeValue.toNat : Int) - (s.time.now.toNat : Int)) s

/-- SET_TIME (R9). -/
def execSetTime (r : Request) (s : State) : Host.Outcome State Fault Refusal :=
  .next (s.arrive (engineTakes .setTime r takeSetTime))

end Sys2Proof.Machine
end

