-- ==== Sys2Proof/Machine/Trip.lean ====
section
/-! DEFINITION. The trip unit's requests (spec/07_trip.md): FORCE_TRIP and CLEAR_TRIP. -/

namespace Sys2Proof.Machine

/-- An answer of the trip unit, which names no slot (R107, R111). -/
def tripAnswer (status : Status) (mask : BitVec 16) (record : TripRecord) (wasClear : Bool) : Answer :=
  { status := status, valueA := tripValue mask record, valueB := record.time, named := none, generation := 0,
    reportWasPending := false, wasClear := wasClear }

/-- FORCE_TRIP as the trip unit takes it: a raise of the forced cause, answered with the cause set after it (R107). -/
def takeForceTrip (_ : Request) (s : State) : State × Answer :=
  (s.raise .forced,
    tripAnswer .ok (s.raise .forced).trip.causeMask (s.raise .forced).trip.record (s.trip.state == .clear))

/-- FORCE_TRIP (R107). -/
def execForceTrip (r : Request) (s : State) : Host.Outcome State Fault Refusal :=
  .next (s.arrive (engineTakes .forceTrip r takeForceTrip))

/-- The trip unit after an accepted clear: no latched cause, CLEAR, the record kept (R112). -/
def TripUnit.cleared (t : TripUnit) : TripUnit :=
  { t with state := .clear, guardCause := false, faultCause := false, forcedCause := false }

/-- CLEAR_TRIP as the trip unit takes it, answered with the cause set before it (R111). -/
def takeClearTrip (_ : Request) (s : State) : State × Answer :=
  if s.trip.state = .clear then (s, tripAnswer .ok s.trip.causeMask s.trip.record true)
  else if s.trip.inputCauses ≠ 0 then (s, tripAnswer .tripActive s.trip.causeMask s.trip.record false)
  else (s.withTrip s.trip.cleared, tripAnswer .ok s.trip.causeMask s.trip.record false)

/-- CLEAR_TRIP (R111). -/
def execClearTrip (r : Request) (s : State) : Host.Outcome State Fault Refusal :=
  .next (s.arrive (engineTakes .clearTrip r takeClearTrip))

end Sys2Proof.Machine
end

