-- ==== Sys2Proof/Machine/Submission.lean ====
section
/-! DEFINITION. The submission ring and the request engine (spec/09_submission_ring_and_request_engine.md): SUBMIT_TAIL, the
fetch and its ends, and NOP. -/

namespace Sys2Proof.Machine

/-- SUBMIT_TAIL_WRITE: a value below E becomes the tail, any other sets TAIL_RANGE (R133). -/
def execSubmitTailWrite (value : BitVec 32) (s : State) : Host.Outcome State Fault Refusal :=
  .next (if value.toNat < s.fetch.entries then s.withFetch { s.fetch with tail := value.toNat }
    else s.withControl { s.control with tailRange := true })

/-- The address of an entry of the submission ring (R132). DESIGN CHOICE (log 37): the sum wraps modulo 2^64, where the
specification states no address. -/
def FetchUnit.address (f : FetchUnit) (index : Nat) : BitVec 64 := f.base + BitVec.ofNat 64 (64 * index)

/-- The four conditions for a read (R135). -/
def State.mayFetch (s : State) : Bool :=
  decide (s.control.state = .running ∧ s.fetch.head ≠ s.fetch.tail ∧ s.held = none ∧ s.fetch.inFlight = none)

/-- FETCH_ISSUE: the record at the head is read when the four conditions hold (R135; log 11). -/
def execFetchIssue (s : State) : Host.Outcome State Fault Refusal :=
  .next (if s.mayFetch then s.withFetch { s.fetch with inFlight := some s.fetch.head } else s)

/-- NOP as the request engine takes it (R143). -/
def takeNop (_ : Request) (s : State) : State × Answer := (s, .plain .ok 0 0)

/-- NOP (R143). -/
def execNop (r : Request) (s : State) : Host.Outcome State Fault Refusal :=
  .next (s.arrive (engineTakes .nop r takeNop))

/-- The block that takes each kind of request (9.4). -/
def owner : RequestKind → Request → State → State × Answer
  | .nop => takeNop
  | .fence => takeFence
  | .arm => takeArm
  | .cancel => takeCancel
  | .cancelGroup => takeCancelGroup
  | .stage => takeStage
  | .renew => takeRenew
  | .hold => takeHold
  | .release => takeRelease
  | .querySlot => takeQuerySlot
  | .line => takeLine
  | .configInput => takeConfigInput
  | .readTime => takeReadTime
  | .stepTime => takeStepTime
  | .setTime => takeSetTime
  | .clearTrip => takeClearTrip
  | .forceTrip => takeForceTrip

/-- The request engine takes a record: step 1 of validation, then the record of its kind (R138, R139). -/
def takeRecord (record : Record) (s : State) : State :=
  match RequestKind.ofCode? record.kind with
  | none => s.holdResponse .ordinary record.body (.refusal .badKind)
  | some k => engineTakes k record.body (owner k) s

/-- One discarded fetch has ended; its data or error is dropped (R127, R137). -/
def dropFetchEnd (s : State) : State := s.withFetch { s.fetch with abandoned := s.fetch.abandoned - 1 }

/-- FETCH_DATA_ARRIVES: dropped, withdrawn, or taken (R136). -/
def execFetchDataArrives (access : Access) (data : Image64) (s : State) : Host.Outcome State Fault Refusal :=
  .next (match access with
    | .abandoned => dropFetchEnd s
    | .own => s.arrive (takeRecord (decodeRecord data)))

/-- FETCH_READ_ERROR: the record is not taken, the head does not advance, the controller enters FAULTED (R127, R137). -/
def execFetchReadError (access : Access) (s : State) : Host.Outcome State Fault Refusal :=
  .next (match access with
    | .abandoned => dropFetchEnd s
    | .own =>
      match s.fetch.inFlight with
      | none => s
      | some _ => (s.withFetch { s.fetch with inFlight := none }).enterFaulted .fetchRead)

end Sys2Proof.Machine
end

