-- ==== Sys2Proof/Machine/Control.lean ====
section
/-! DEFINITION. The control block (spec/08_controller_states_and_the_register_window.md): the commands of CONTROL, the
configuration load, the resets, STATUS and the plain registers. -/

namespace Sys2Proof.Machine

/-! ## Resets (R6, R22, R23, R48, R63, R81, R115, R129, R132, R146, R162) -/

/-- POWER_ON_RESET: every block takes its power-on values (R117). The queue of commands is the sender's and the count of
free values is the model's; both are kept (log 27). -/
def execPowerOnReset (s : State) : Host.Outcome State Fault Refusal :=
  .next ((State.reset.withFreeCount s.freeCount).withPending s.pending)

/-- A slot under a controller reset: IDLE, no report, its generation kept (R22). -/
def Slot.controllerReset (sl : Slot) : Slot := { generation := sl.generation, arming := none, report := .empty }

/-- A line under a controller reset: its pulse end cancelled, all else kept (R63). -/
def OutputLine.controllerReset (l : OutputLine) : OutputLine :=
  { l with drive := l.drive.map fun d => { d with pulseEnd := none } }

/-- The fetch unit under a controller reset: head and tail 0, the fetch in flight discarded (R129, R132). -/
def FetchUnit.controllerReset (f : FetchUnit) : FetchUnit := { f.discard with head := 0, tail := 0 }

/-- The completion writer under a controller reset (R129, R162). -/
def CompletionWriter.controllerReset (w : CompletionWriter) : CompletionWriter :=
  { base := w.base, entries := w.entries, writeIndex := 0, completeHead := 0, nextSequence := 1, inFlight := none
    abandoned := if w.inFlight.isSome then w.abandoned + 1 else w.abandoned
    fairness := 0, fenceMark := none, threshold := w.threshold, delay := w.delay, moderationCount := 0
    delayTimer := none, queue := [], controllerEntry := .empty }

/-- The control block under a controller reset: CONFIG_LO, CONFIG_HI and the option in force are kept, a configuration
read in progress is abandoned (R129). -/
def ControlBlock.controllerReset (c : ControlBlock) : ControlBlock :=
  { state := .halted, origin := none, faultCause := .none, tripOnFault := c.tripOnFault, configLo := c.configLo
    configHi := c.configHi, cmdIgnored := false, tailRange := false, headRange := false, intCause := 0, intEnable := 0
    configRead := none, heldBlock := none
    abandonedReads := if c.configRead.isSome then c.abandonedReads + 1 else c.abandonedReads
    readData := c.readData }

/-- The controller reset, handed to every block within one claim (R129). The input lines, the trip unit, the divider and
the tick phase are kept (R6, R81, R115). -/
def controllerReset (s : State) : State :=
  { time := { s.time with now := 0, counting := .stopped }
    slots := s.slots.map Slot.controllerReset
    groups := Vector.replicate 16 .running
    deadlineList := []
    lines := s.lines.map OutputLine.controllerReset
    configurationPresent := false
    inputs := s.inputs
    trip := s.trip
    fetch := s.fetch.controllerReset
    held := none
    writer := s.writer.controllerReset
    control := s.control.controllerReset
    freeCount := s.freeCount
    pending := s.pending }

/-! ## CONTROL (R118, R119, R124, R126, R129) -/

/-- A command written in a state that does not take it, or a code that is none: CMD_IGNORED (R118). -/
def ignoreCommand (s : State) : State := s.withControl { s.control with cmdIgnored := true }

/-- The configuration address that CONFIG_HI and CONFIG_LO hold (R131). -/
def ControlBlock.configAddress (c : ControlBlock) : BitVec 64 := c.configHi ++ c.configLo

/-- START carried out from HALTED or FAULTED: the address is latched by the read that is issued (R119). -/
def beginLoad (origin : LoadOrigin) (s : State) : State :=
  s.withControl
    { s.control with
      state := .loading
      origin := some origin
      configRead := some s.control.configAddress
      heldBlock := none }

/-- START written to CONTROL (R118, R119). -/
def startCommand (s : State) : State :=
  match s.control.state with
  | .halted => beginLoad .halted s
  | .faulted => beginLoad .faulted s
  | .loading => ignoreCommand s
  | .running => ignoreCommand s
  | .pausing => ignoreCommand s
  | .paused => ignoreCommand s

/-- PAUSE written to CONTROL (R118, R124). -/
def pauseCommand (s : State) : State :=
  if s.control.state = .running then (s.withState .pausing).settlePause else ignoreCommand s

/-- RESUME written to CONTROL (R118, R126). -/
def resumeCommand (s : State) : State :=
  if s.control.state = .pausing ∨ s.control.state = .paused then s.withState .running else ignoreCommand s

/-- START (R119). -/
def execStart (s : State) : Host.Outcome State Fault Refusal := .next (startCommand s)

/-- PAUSE (R124). -/
def execPause (s : State) : Host.Outcome State Fault Refusal := .next (pauseCommand s)

/-- RESUME (R126). -/
def execResume (s : State) : Host.Outcome State Fault Refusal := .next (resumeCommand s)

/-- RESET (R129). -/
def execReset (s : State) : Host.Outcome State Fault Refusal := .next (controllerReset s)

/-- A write of any value to CONTROL (R118, R168). -/
def controlWrite (value : BitVec 32) (s : State) : State :=
  match value.toNat with
  | 0 => s
  | 1 => startCommand s
  | 2 => pauseCommand s
  | 3 => resumeCommand s
  | 4 => controllerReset s
  | _ => ignoreCommand s

/-- CONTROL_WRITE_UNASSIGNED_CODE: code 0 changes nothing, codes 5 and above set CMD_IGNORED (R118). A value that is not
well formed for the row is the command it spells (log 17). -/
def execControlWriteUnassignedCode (value : BitVec 32) (s : State) : Host.Outcome State Fault Refusal :=
  .next (controlWrite value s)

/-! ## STATUS and the plain registers (R130, R131, R163) -/

/-- STATUS_READ: the fields are returned as they stand, then the three flags are cleared (R130; log 12). -/
def execStatusRead (s : State) : Host.Outcome State Fault Refusal :=
  .next (s.withControl
    { s.control with readData := s.statusWord, cmdIgnored := false, tailRange := false, headRange := false })

/-- REGISTER_WRITE (R130, R131, R163). -/
def execRegisterWrite (register : PlainRegister) (value : BitVec 32) (s : State) : Host.Outcome State Fault Refusal :=
  .next (match register with
    | .configLo => s.withControl { s.control with configLo := value.extractLsb' 6 26 ++ 0#6 }
    | .configHi => s.withControl { s.control with configHi := value }
    | .intEnable => s.withControl { s.control with intEnable := value.extractLsb' 0 3 }
    | .status => s)

/-! ## Configuration load (R119 to R123) -/

/-- One abandoned configuration read has ended; its result is dropped (R129). -/
def dropReadEnd (s : State) : State := s.withControl { s.control with abandonedReads := s.control.abandonedReads - 1 }

/-- The configuration read has ended. -/
def endRead (s : State) : State := s.withControl { s.control with configRead := none }

/-- CONFIG_READ_ERROR: FAULTED with cause CONFIG_READ; nothing of the block is used (R120). -/
def execConfigReadError (access : Access) (s : State) : Host.Outcome State Fault Refusal :=
  .next (match access with
    | .abandoned => dropReadEnd s
    | .own => if s.control.configRead.isSome then (endRead s).enterFaulted .configRead else s)

/-- CONFIG_BLOCK_ARRIVES: an invalid block enters FAULTED with cause CONFIG_BAD, a valid one is held until it can be
applied (R119, R121). -/
def execConfigBlockArrives (access : Access) (data : Image64) (s : State) : Host.Outcome State Fault Refusal :=
  .next (match access with
    | .abandoned => dropReadEnd s
    | .own =>
      if s.control.configRead.isSome then
        if (decodeBlock data).valid then
          (endRead s).withControl { (endRead s).control with heldBlock := some (decodeBlock data) }
        else (endRead s).enterFaulted .configBad
      else s)

/-- Part 1 of R122, submission side (R132, R134). -/
def FetchUnit.load (b : ConfigBlock) (f : FetchUnit) : FetchUnit :=
  { f with base := b.submissionBase, entries := 2 ^ b.submissionLog2.toNat, head := 0, tail := 0 }

/-- Parts 1 and 2 of R122, completion side: the report queue, the report fields and the fence mark are kept (R162). -/
def CompletionWriter.load (b : ConfigBlock) (w : CompletionWriter) : CompletionWriter :=
  { w with
    base := b.completionBase
    entries := 2 ^ b.completionLog2.toNat
    writeIndex := 0
    completeHead := 0
    nextSequence := 1
    fairness := 0
    threshold := b.threshold
    delay := b.moderation
    moderationCount := 0
    delayTimer := none }

/-- Parts 4 and 7 of R122: the divider for ticks yet to begin, and counting begun if device time was STOPPED (R2, R4). -/
def TimeBase.load (b : ConfigBlock) (t : TimeBase) : TimeBase :=
  { t with
    divider := b.divider.toNat
    counting := if t.counting = .stopped then .counting else t.counting }

/-- Parts 5 and 6 of R122: the option, the fault cause and RUNNING. -/
def ControlBlock.load (b : ConfigBlock) (c : ControlBlock) : ControlBlock :=
  { c with
    state := .running
    origin := none
    faultCause := .none
    tripOnFault := b.options.getLsbD 0
    heldBlock := none }

/-- A valid block is applied whole (R122). -/
def applyBlock (b : ConfigBlock) (s : State) : State :=
  ((((applyMasks b s).withFetch (s.fetch.load b)).withWriter (s.writer.load b)).withTime (s.time.load b)).withControl
    (s.control.load b)

/-- CONFIG_APPLY: a held valid block is applied once no completion write is in flight (R119, R122). -/
def execConfigApply (s : State) : Host.Outcome State Fault Refusal :=
  .next (match s.control.heldBlock with
    | none => s
    | some b => if s.writer.inFlight = none then applyBlock b s else s)

end Sys2Proof.Machine
end

