-- ==== Sys2Proof/Machine/Dispatch.lean ====
section
/-! DEFINITION. One arm per command: each is one direct call of its meaning. -/

namespace Sys2Proof.Machine

def exec (i : Instr) (s : State) : Host.Outcome State Fault Refusal :=
  match i with
  | .powerOnReset => Sys2Proof.Machine.execPowerOnReset s
  | .tick pins => Sys2Proof.Machine.execTick pins s
  | .start => Sys2Proof.Machine.execStart s
  | .pause => Sys2Proof.Machine.execPause s
  | .resume => Sys2Proof.Machine.execResume s
  | .reset => Sys2Proof.Machine.execReset s
  | .statusRead => Sys2Proof.Machine.execStatusRead s
  | .submitTailWrite value => Sys2Proof.Machine.execSubmitTailWrite value s
  | .completeHeadWrite value => Sys2Proof.Machine.execCompleteHeadWrite value s
  | .intCauseWrite value => Sys2Proof.Machine.execIntCauseWrite value s
  | .registerWrite register value => Sys2Proof.Machine.execRegisterWrite register value s
  | .configReadError access => Sys2Proof.Machine.execConfigReadError access s
  | .configBlockArrives access data => Sys2Proof.Machine.execConfigBlockArrives access data s
  | .configApply => Sys2Proof.Machine.execConfigApply s
  | .fetchIssue => Sys2Proof.Machine.execFetchIssue s
  | .fetchDataArrives access data => Sys2Proof.Machine.execFetchDataArrives access data s
  | .fetchReadError access => Sys2Proof.Machine.execFetchReadError access s
  | .nop request => Sys2Proof.Machine.execNop request s
  | .fence request => Sys2Proof.Machine.execFence request s
  | .arm request => Sys2Proof.Machine.execArm request s
  | .cancel request => Sys2Proof.Machine.execCancel request s
  | .cancelGroup request => Sys2Proof.Machine.execCancelGroup request s
  | .stage request => Sys2Proof.Machine.execStage request s
  | .renew request => Sys2Proof.Machine.execRenew request s
  | .hold request => Sys2Proof.Machine.execHold request s
  | .release request => Sys2Proof.Machine.execRelease request s
  | .querySlot request => Sys2Proof.Machine.execQuerySlot request s
  | .line request => Sys2Proof.Machine.execLine request s
  | .configInput request => Sys2Proof.Machine.execConfigInput request s
  | .readTime request => Sys2Proof.Machine.execReadTime request s
  | .stepTime request => Sys2Proof.Machine.execStepTime request s
  | .setTime request => Sys2Proof.Machine.execSetTime request s
  | .clearTrip request => Sys2Proof.Machine.execClearTrip request s
  | .forceTrip request => Sys2Proof.Machine.execForceTrip request s
  | .onceExpiry slot => Sys2Proof.Machine.execOnceExpiry slot s
  | .repeatExpiry slot => Sys2Proof.Machine.execRepeatExpiry slot s
  | .guardWarn slot => Sys2Proof.Machine.execGuardWarn slot s
  | .guardFault slot => Sys2Proof.Machine.execGuardFault slot s
  | .afterEdgeExpiry slot => Sys2Proof.Machine.execAfterEdgeExpiry slot s
  | .timeout slot => Sys2Proof.Machine.execTimeout slot s
  | .pulseEnd line => Sys2Proof.Machine.execPulseEnd line s
  | .edge input share => Sys2Proof.Machine.execEdge input share s
  | .completionWriteIssue => Sys2Proof.Machine.execCompletionWriteIssue s
  | .reportWriteAck access => Sys2Proof.Machine.execReportWriteAck access s
  | .responseWriteAck access => Sys2Proof.Machine.execResponseWriteAck access s
  | .completionWriteError access => Sys2Proof.Machine.execCompletionWriteError access s
  | .moderationDelayExpiry => Sys2Proof.Machine.execModerationDelayExpiry s
  | .controlWriteUnassignedCode value => Sys2Proof.Machine.execControlWriteUnassignedCode value s

end Sys2Proof.Machine
end

