-- ==== Sys2Proof/Machine/Step.lean ====
section
/-! DEFINITION. One step: the command at the front of the queue, or a REFCLK period on an empty queue. -/

namespace Sys2Proof.Machine

/-- The command at the front of the queue is taken with the queue's rest. On an empty queue the block idles: a REFCLK
period that completes no tick passes (log 3). -/
def step (s : State) : Host.Outcome State Fault Refusal :=
  match s.pending with
  | [] => .next (refclkPeriod s)
  | c :: rest => exec c (s.withPending rest)

/-- The state with the command a word spells at the front of its queue, unchanged where it spells none (log 31). -/
def State.withFetchWord (s : State) (nbits w : Nat) : State :=
  match decodeTableWord nbits w with
  | none => s
  | some c => s.withPending (c :: s.pending)

end Sys2Proof.Machine
end

