-- ==== Sys2Proof/Safety.lean ====
section
/-! DEFINITION. What a sound state of the device is: the invariants that the specification states in prose. Each is a
property of one state; that every command keeps it is an obligation. -/

namespace Sys2Proof.Machine

/-! ## The deadline list (R41, R42) -/

/-- The list is in order by deadline and then by slot number, which also makes each slot stand there at most once, and it
holds exactly the slots that are ARMED, or WAITING with a timeout. -/
def DeadlineListSound (s : State) : Prop :=
  s.deadlineList.Pairwise (fun n m => deadlineKey s.slots n < deadlineKey s.slots m)
    ∧ ∀ n : SlotNumber, n ∈ s.deadlineList ↔ (s.slots[n].deadline?).isSome = true

/-! ## The report queue (R151, R156) -/

/-- The queue holds each source at most once, and exactly those whose report state is PENDING; the source of a report
write in flight is its head. -/
def ReportQueueSound (s : State) : Prop :=
  s.writer.queue.Nodup
    ∧ (∀ src : Source, src ∈ s.writer.queue ↔ (s.report src).state = .pending)
    ∧ ∀ w src formed, s.writer.inFlight = some w → w.source = .report src formed → s.writer.queue.head? = some src

/-! ## Safe levels (R70) -/

/-- While TRIPPED, every enabled line that participates is at its safe level and has no pulse end. -/
def SafeLevelsHeld (s : State) : Prop :=
  s.trip.state = .tripped → ∀ (n : LineNumber) (d : Drive),
    s.lines[n].drive = some d → s.lines[n].participates = true → d = { level := s.lines[n].safeLevel, pulseEnd := none }

/-! ## Causes (R78, R81, R104) -/

/-- While CLEAR no cause is active or latched, and the input causes are the trip-level statuses of the lines. -/
def CausesSound (s : State) : Prop :=
  (s.trip.state = .clear → s.trip.anyCause = false)
    ∧ ∀ n : InputNumber, s.trip.inputCauses.getLsbD n.val = s.inputs[n].active

/-! ## Traffic with memory (R119, R125, R137, R145) -/

/-- A fetch is in flight only in RUNNING or PAUSING, reads the head, and never while a response is held. -/
def FetchSound (s : State) : Prop :=
  ∀ i, s.fetch.inFlight = some i →
    (s.control.state = .running ∨ s.control.state = .pausing) ∧ i = s.fetch.head ∧ s.held = none

/-- PAUSING has a fetch in flight or a response held; PAUSED and HALTED have neither. -/
def PauseSound (s : State) : Prop :=
  (s.control.state = .pausing → s.fetch.inFlight ≠ none ∨ s.held ≠ none)
    ∧ (s.control.state = .paused → s.held = none)
    ∧ (s.control.state = .halted → s.held = none)

/-- LOADING either reads the block or holds it and remembers its origin; every other state does neither. -/
def LoadSound (s : State) : Prop :=
  (s.control.state = .loading →
      s.control.origin ≠ none
        ∧ ((s.control.configRead ≠ none ∧ s.control.heldBlock = none)
          ∨ (s.control.configRead = none ∧ ∃ b, s.control.heldBlock = some b ∧ b.valid = true)))
    ∧ (s.control.state ≠ .loading →
      s.control.origin = none ∧ s.control.configRead = none ∧ s.control.heldBlock = none)

/-- A completion write is in flight in RUNNING, PAUSING, PAUSED, FAULTED, or LOADING from FAULTED; one of a response
has its response held. -/
def WriteSound (s : State) : Prop :=
  ∀ w, s.writer.inFlight = some w →
    s.control.state ≠ .halted ∧ (s.control.state = .loading → s.control.origin = some .faulted)
      ∧ (w.source = .response → s.held ≠ none)

/-- The traffic of the device with memory is as its controller state says. -/
def TrafficSound (s : State) : Prop := FetchSound s ∧ PauseSound s ∧ LoadSound s ∧ WriteSound s

/-! ## Ranges (R1, R2, R132, R147, R154) -/

/-- Ring sizes, indices, the fairness count, the divider and the tick phase lie in their ranges. -/
def RangesSound (s : State) : Prop :=
  (16 ≤ s.fetch.entries ∧ s.fetch.entries ≤ 4096)
    ∧ (s.fetch.head < s.fetch.entries ∧ s.fetch.tail < s.fetch.entries)
    ∧ (16 ≤ s.writer.entries ∧ s.writer.entries ≤ 4096)
    ∧ (s.writer.writeIndex < s.writer.entries ∧ s.writer.completeHead < s.writer.entries)
    ∧ s.writer.fairness ≤ 4
    ∧ (1 ≤ s.time.divider ∧ s.time.divider ≤ 65536)
    ∧ (1 ≤ s.time.tickLength ∧ s.time.tickLength ≤ 65536 ∧ s.time.phase < s.time.tickLength)
    ∧ (∀ b, s.control.heldBlock = some b → b.valid = true)

/-- The write in flight has the index, the sequence number and the address of the next record, and its entry lies outside
the records the host has not released (R147, R149). -/
def RingSound (s : State) : Prop :=
  ∀ w, s.writer.inFlight = some w →
    w.index = s.writer.writeIndex ∧ w.sequence = s.writer.nextSequence ∧ w.address = s.writer.address
      ∧ s.writer.full = false

/-- The moderation count stays below the threshold, and a delay timer that runs has at most D ticks to run and counts for
a record not yet signalled (R164). -/
def ModerationSound (s : State) : Prop :=
  (∀ b, s.control.heldBlock = some b → b.valid = true)
    ∧ s.writer.moderationCount < s.writer.threshold.toNat
    ∧ ∀ k, s.writer.delayTimer = some k → k ≤ s.writer.delay.toNat ∧ 1 ≤ s.writer.moderationCount

/-- The fence mark never exceeds the entries of the report queue, and a held FENCE response has one (R160, R161). -/
def FenceSound (s : State) : Prop :=
  (∀ k, s.writer.fenceMark = some k → k ≤ s.writer.queue.length)
    ∧ ∀ h, s.held = some h → h.kind = .fence → s.writer.fenceMark ≠ none

/-- A write of a held FENCE response is in flight only when every report ahead of it has been written: the mark is 0
(R154, R161). -/
def FenceWrittenLast (s : State) : Prop :=
  ∀ w h, s.writer.inFlight = some w → w.source = .response → s.held = some h → h.kind = .fence → s.writer.fenceMark = some 0

/-- While the response to an accepted ARM is held, no report of the slot it armed is being written (R155). -/
def ArmResponseFirst (s : State) : Prop :=
  ∀ h n, s.held = some h → h.kind = .acceptedArm n →
    ∀ w formed, s.writer.inFlight = some w → w.source ≠ .report (.slot n) formed

/-! ## Input lines (R76, R77, R82) -/

/-- A candidate is the level opposite to the qualified level, and its stable count never exceeds the filter length (R76).
An edge under way is one to the qualified level that has not reached all its parties, and no other edge of its line waits
for its acceptance meanwhile (R77, R82). -/
def InputsSound (s : State) : Prop :=
  ∀ n : InputNumber, let l := s.inputs[n]
    (∀ c, l.candidate = some c → c.count ≤ l.filter.toNat ∧ l.qualified = some (!c.level))
      ∧ ∀ e, l.edge = some e → l.qualified = some e.level ∧ e.left? = some e ∧ l.acceptable = none

/-! ## Counting (R4, R5) -/

/-- Device time is 0 while STOPPED, stands at the end of its range exactly when counting has ENDED, and is not STOPPED
in a state in which requests are taken or reports written. -/
def CountingSound (s : State) : Prop :=
  (s.time.counting = .stopped → s.time.now = 0)
    ∧ (s.time.counting = .counting → s.time.now ≠ endOfTime)
    ∧ (s.time.counting = .ended → s.time.now = endOfTime)
    ∧ (s.control.state.writes = true → s.time.counting ≠ .stopped)
    ∧ (∀ i, s.fetch.inFlight = some i → s.control.state.writes = true)

/-! ## Slot states and modes (R18) -/

/-- The states of each mode: a guard is ARMED whenever it is not IDLE, a ONCE or REPEAT slot is never WAITING, and a slot
held from ARMED keeps a remaining time. -/
def Arming.phaseFits (a : Arming) : Bool :=
  match a.part, a.phase with
  | .once, .armed _ => true
  | .once, .waiting _ => false
  | .once, .held o r => o == .armed && r.isSome
  | .repeating _, .armed _ => true
  | .repeating _, .waiting _ => false
  | .repeating _, .held o r => o == .armed && r.isSome
  | .guard _, .armed _ => true
  | .guard _, .waiting _ => false
  | .guard _, .held _ _ => false
  | .waitEdge _, .armed _ => true
  | .waitEdge _, .waiting _ => true
  | .waitEdge _, .held o r => o == .waiting || r.isSome

/-- Every slot is in a state its mode allows. -/
def SlotStatesSound (s : State) : Prop :=
  ∀ (n : SlotNumber) (a : Arming), s.slots[n].arming = some a → a.phaseFits = true

/-! ## Deadlines and pulse ends (R44, R62) -/

/-- A pulse lasts at least one tick (R64). -/
def ActionKind.positive (k : ActionKind) : Prop :=
  match k with
  | .set => True
  | .clear => True
  | .toggle => True
  | .pulseHigh w => w ≠ 0
  | .pulseLow w => w ≠ 0

/-- The intervals of an arming and the pulse of its action are at least one tick (R24, R34). -/
def Arming.positive (a : Arming) : Prop :=
  (∀ x, a.action = some x → x.kind.positive)
    ∧ match a.part with
      | .once => True
      | .repeating p =>
        p.period ≠ 0 ∧ ∀ c, p.staged = some c → c.period ≠ some 0 ∧ ∀ x, c.action = some (.replace x) → x.kind.positive
      | .guard g => g.period ≠ 0 ∧ g.grace ≠ 0
      | .waitEdge p => p.timeout ≠ some 0 ∧ p.delay ≠ some 0

/-- Every arming has intervals and a pulse of at least one tick. -/
def IntervalsSound (s : State) : Prop := ∀ (n : SlotNumber) (a : Arming), s.slots[n].arming = some a → a.positive

/-- No deadline and no pulse end lies before device time. -/
def DeadlinesAhead (s : State) : Prop :=
  IntervalsSound s
    ∧ (∀ (n : SlotNumber) (d : Time), s.slots[n].deadline? = some d → s.time.now ≤ d)
    ∧ ∀ (n : LineNumber) (d : Drive) (e : PulseEnd),
        s.lines[n].drive = some d → d.pulseEnd = some e → s.time.now ≤ e.time

end Sys2Proof.Machine
end

