-- ==== Sys2Proof/Certificates/Slice0/Obligations.lean ====
section
/-! DEFINITION. The statements for the provers. The words they share stand first, in `Sys2Proof.Claims`: each is written
from the specification's tables and not from the meanings. A statement that changes a slot leaves the deadline list to
`DeadlineListIsKept`: a sound list is determined by the slots (R41, R42). -/

namespace Sys2Proof.Claims
open Sys2Proof.Machine

/-! ## Words: requests -/

/-- The data of the fetch in flight is taken: it has not been withdrawn (case 3 of R136). -/
abbrev Arrives (s : State) : Prop := s.fetch.inFlight.isSome = true ∧ s.fetch.tail ≠ s.fetch.head

/-- The state in which the request engine takes the record: the fetch is over, the head has advanced (R136). -/
def taken (s : State) : State :=
  { s with fetch := { s.fetch with inFlight := none, head := (s.fetch.head + 1) % s.fetch.entries } }

/-- A state that holds a response (R144, R145). -/
def responding (kind : ResponseKind) (r : Request) (a : Answer) (s : State) : State :=
  let response : HeldResponse :=
    { kind := kind, answer := a, requestId := r.requestId, submissionHead := BitVec.ofNat 16 s.fetch.head }
  { s with held := some response }

/-- An answer that names no slot. -/
def unnamed (status : Status) (a b : BitVec 64) (wasClear : Bool) : Answer :=
  { status := status, valueA := a, valueB := b, named := none, generation := 0, reportWasPending := false,
    wasClear := wasClear }

/-- An answer that names slot `n` with its generation. -/
def naming (n : SlotNumber) (generation : BitVec 16) (status : Status) (a b : BitVec 64) (pending : Bool) : Answer :=
  { status := status, valueA := a, valueB := b, named := some n, generation := generation, reportWasPending := pending,
    wasClear := false }

/-- A record whose reserved bytes are 0. -/
abbrev Clean (r : Request) : Prop := r.reserved47 = 0 ∧ r.reserved56 = 0

/-- A record with no flag set and reserved bytes 0: what the kinds without a meaningful flag accept (R140). -/
abbrev Unflagged (r : Request) : Prop := Clean r ∧ r.flags = 0

/-- The record names slot `n`. -/
abbrev Names (r : Request) (n : SlotNumber) : Prop := r.slot.toNat = n.val

/-- A request row with its kind and record. -/
def requestOf : Instr → Option (RequestKind × Request)
  | .nop r => some (.nop, r)
  | .fence r => some (.fence, r)
  | .arm r => some (.arm, r)
  | .cancel r => some (.cancel, r)
  | .cancelGroup r => some (.cancelGroup, r)
  | .stage r => some (.stage, r)
  | .renew r => some (.renew, r)
  | .hold r => some (.hold, r)
  | .release r => some (.release, r)
  | .querySlot r => some (.querySlot, r)
  | .line r => some (.line, r)
  | .configInput r => some (.configInput, r)
  | .readTime r => some (.readTime, r)
  | .stepTime r => some (.stepTime, r)
  | .setTime r => some (.setTime, r)
  | .clearTrip r => some (.clearTrip, r)
  | .forceTrip r => some (.forceTrip, r)
  | _ => none

/-! ## Words: validation (the tables of R140 and R141) -/

/-- The numbers of the meaningful flag bits (R140; bit numbers of 11.3). -/
def flagBits (k : RequestKind) (r : Request) : List Nat :=
  match k with
  | .cancel => [3]
  | .renew => [3]
  | .stage => if r.flags.getLsbD 7 then [4, 6, 7, 8] else [6, 7, 8]
  | .arm =>
    match r.mode.toNat with
    | 1 => [0, 1, 2, 4]
    | 2 => [0, 1, 2, 4]
    | 3 => [0, 1, 2, 4, 5]
    | 4 => [1, 2, 4, 9, 10]
    | _ => [0, 1, 2, 4, 5, 9, 10]
  | _ => []

/-- Step 2 of validation refuses the record (R140). -/
def FailsFlags (k : RequestKind) (r : Request) : Prop :=
  r.reserved47 ≠ 0 ∨ r.reserved56 ≠ 0
    ∨ (∃ b, b < 16 ∧ r.flags.getLsbD b = true ∧ b ∉ flagBits k r)
    ∨ (k = .stage ∧ r.flags.getLsbD 6 = false ∧ r.flags.getLsbD 7 = false ∧ r.flags.getLsbD 8 = false)

/-- Step 3 of validation refuses the record (R139). -/
def FailsSlot (k : RequestKind) (r : Request) : Prop :=
  k ∈ [RequestKind.arm, .cancel, .stage, .renew, .querySlot] ∧ 256 ≤ r.slot.toNat

/-- The record carries an action (the row of R141 for the action kind). -/
def CarriesAction (k : RequestKind) (r : Request) : Prop :=
  (k = .arm ∧ r.flags.getLsbD 4 = true) ∨ (k = .stage ∧ r.flags.getLsbD 7 = true ∧ r.flags.getLsbD 4 = true) ∨ k = .line

/-- An action kind outside 1 to 5, or a pulse whose width is outside 1 to 2^24 - 1 (R141). -/
def BadAction (r : Request) : Prop :=
  r.actionKind.toNat = 0 ∨ 5 < r.actionKind.toNat
    ∨ (4 ≤ r.actionKind.toNat ∧ (r.pulseWidth.toNat = 0 ∨ 2 ^ 24 ≤ r.pulseWidth.toNat))

/-- Step 4 of validation refuses the record (R141). -/
def FailsField (k : RequestKind) (r : Request) : Prop :=
  (CarriesAction k r ∧ BadAction r)
    ∨ (k = .arm ∧ (r.mode.toNat = 0 ∨ 4 < r.mode.toNat ∨ 2 < r.reportPolicy.toNat ∨ 15 < r.group.toNat
      ∨ (r.mode.toNat = 2 ∧ (r.period = 0 ∨ 1 < r.latePolicy.toNat))
      ∨ (r.mode.toNat = 3 ∧ (r.period = 0 ∨ r.grace = 0))
      ∨ (r.mode.toNat = 4 ∧ (r.timeValue ≠ 0 ∨ 7 < r.inputLine.toNat ∨ r.edgeSelect.toNat = 0 ∨ 3 < r.edgeSelect.toNat
        ∨ (r.flags.getLsbD 9 = true ∧ r.grace = 0) ∨ (r.flags.getLsbD 10 = true ∧ r.delay = 0)))))
    ∨ (k = .stage ∧ r.flags.getLsbD 6 = true ∧ r.period = 0)
    ∨ (k = .configInput ∧ (7 < r.inputLine.toNat ∨ 2 < r.tripLevel.toNat))
    ∨ (k = .stepTime ∧ r.timeValue = 0)

/-- Step 5 of validation refuses the record: the line is 16 or above, or is not enabled (R141). -/
def FailsLine (k : RequestKind) (r : Request) (s : State) : Prop :=
  CarriesAction k r ∧ ∀ n : LineNumber, r.outputLine.toNat = n.val → s.lines[n].drive = none

/-- The record passes steps 2 to 5 of validation. -/
def Valid (k : RequestKind) (r : Request) (s : State) : Prop :=
  ¬ FailsFlags k r ∧ ¬ FailsSlot k r ∧ ¬ FailsField k r ∧ ¬ FailsLine k r s

/-! ## Words: time steps (R10 to R13) -/

/-- A time moved by `k` stays in the range of device time. -/
abbrev Fits (t : Time) (k : Int) : Prop := 0 ≤ (t.toNat : Int) + k ∧ (t.toNat : Int) + k < 2 ^ 64

/-- A time moved by `k`. -/
def shifted (t : Time) (k : Int) : Time := BitVec.ofInt 64 ((t.toNat : Int) + k)

/-- The deadline a slot holds (02, 2.1). -/
def deadlineOf (sl : Slot) : Option Time :=
  match sl.arming with
  | some { phase := .armed d, .. } => some d
  | some { phase := .waiting t, .. } => t
  | _ => none

/-- A step moves the deadlines of this arming: a guard's, or one anchored REL (R11). -/
def Moves (a : Arming) : Prop := a.anchoring = .rel ∨ ∃ g, a.part = .guard g

/-- The slots of the list that are due, in its order (R44, R45). -/
def dueIn (s : State) : List SlotNumber :=
  s.deadlineList.filter fun n => (deadlineOf s.slots[n]).any fun d => decide (d ≤ s.time.now)

/-- The deadline a slot holds after a step by `k` (R11), as a relation. -/
def MovedTo (sl : Slot) (k : Int) (d : Option Time) : Prop :=
  ∀ a, sl.arming = some a →
    (Moves a → d = (deadlineOf sl).map (shifted · k)) ∧ (¬ Moves a → d = deadlineOf sl)

/-- The pending pulse end of line `n`. -/
def pulseOf (n : LineNumber) (s : State) : Option PulseEnd := s.lines[n].drive.bind (·.pulseEnd)

/-- A step by `k` passes the range check of R10. -/
def StepFits (k : Int) (s : State) : Prop :=
  Fits s.time.now k
    ∧ (∀ (n : SlotNumber) a d, s.slots[n].arming = some a → Moves a → deadlineOf s.slots[n] = some d → Fits d k)
    ∧ ∀ (n : LineNumber) e, pulseOf n s = some e → Fits e.time k

/-- What a step by `k` makes of a slot before any expiry is taken: a deadline that moves and the last renew time of a guard
are moved, everything else is kept (R11, R12). -/
def SlotStepped (k : Int) (before after : Slot) : Prop :=
  after.generation = before.generation ∧ after.report = before.report
    ∧ (before.arming = none → after.arming = none)
    ∧ ∀ a, before.arming = some a → ∃ b, after.arming = some b
      ∧ (b.anchoring = a.anchoring ∧ b.action = a.action ∧ b.policy = a.policy ∧ b.group = a.group ∧ b.tag = a.tag)
      ∧ (∀ g, a.part = .guard g → b.part = .guard
          { g with lastRenew := BitVec.ofNat 64 ((g.lastRenew.toNat : Int) + k).toNat })
      ∧ ((∀ g, a.part ≠ .guard g) → b.part = a.part)
      ∧ (¬ Moves a → b.phase = a.phase)
      ∧ (Moves a → (∀ d, a.phase = .armed d → b.phase = .armed (shifted d k))
          ∧ (∀ d, a.phase = .waiting d → b.phase = .waiting (d.map (shifted · k)))
          ∧ ∀ o left, a.phase = .held o left → b.phase = .held o left)

/-- What a step by `k` makes of a line at device time `now`: a pulse end still due is taken, one still to come is moved with
its end level and the present level kept (R13; part 3 of R15). -/
def lineStepped (now : Time) (k : Int) (l : OutputLine) : OutputLine :=
  { l with drive := l.drive.map fun d =>
      match d.pulseEnd with
      | none => d
      | some e =>
        if e.time ≤ now then { level := e.level, pulseEnd := none }
        else { level := d.level, pulseEnd := some { time := shifted e.time k, level := e.level } } }

/-! ## Words: codes and bits (11.3, 11.4, 11.5, 11.7) -/

/-- The code of a request kind (11.7). -/
def kindNumber : RequestKind → Nat
  | .nop => 0
  | .fence => 1
  | .arm => 2
  | .cancel => 3
  | .cancelGroup => 4
  | .stage => 5
  | .renew => 6
  | .hold => 7
  | .release => 8
  | .querySlot => 9
  | .line => 10
  | .configInput => 11
  | .readTime => 12
  | .stepTime => 13
  | .setTime => 14
  | .clearTrip => 15
  | .forceTrip => 16

/-- The code of a status (11.7). -/
def statusNumber : Status → Nat
  | .ok => 0
  | .badKind => 1
  | .badField => 2
  | .badSlot => 3
  | .badLine => 4
  | .slotBusy => 5
  | .reportPending => 6
  | .notArmed => 7
  | .stale => 8
  | .wrongMode => 9
  | .timeRange => 10
  | .tripActive => 11
  | .lineTripped => 12
  | .earlyRenew => 13

/-- The code of a latest event, 0 where there is none (11.7). -/
def eventNumber : Option Event → Nat
  | none => 0
  | some .expiry => 1
  | some .capture => 2
  | some .timeout => 3
  | some .guardWarn => 4
  | some .guardFault => 5
  | some .trip => 6

/-- The code of a controller state (11.7). -/
def stateNumber : ControllerState → Nat
  | .halted => 0
  | .loading => 1
  | .running => 2
  | .pausing => 3
  | .paused => 4
  | .faulted => 5

/-- The code of a fault cause (11.7). -/
def faultNumber : FaultCause → Nat
  | .none => 0
  | .configRead => 1
  | .configBad => 2
  | .fetchRead => 3
  | .completionWrite => 4

/-- The code of a trip cause kind (11.7). -/
def causeNumber : CauseKind → Nat
  | .none => 0
  | .input => 1
  | .guard => 2
  | .controllerFault => 3
  | .forced => 4

/-- A flag at its bit of a mask. -/
abbrev bit (b : Bool) (n : Nat) : Nat := if b then 2 ^ n else 0

/-- The report flags at their bits (11.4). -/
def flagsNumber (f : ReportFlags) : Nat :=
  bit f.late 0 + bit f.overrun 1 + bit f.suppressed 2 + bit f.dropped 3 + bit f.final 4 + bit f.cancelled 5
    + bit f.saturated 6 + bit f.warned 7 + bit f.early 8

/-- The cause set mask: input causes in bits 0 to 7, guard 8, controller fault 9, forced 10 (11.5). -/
def causesNumber (t : TripUnit) : Nat :=
  t.inputCauses.toNat + bit t.guardCause 8 + bit t.faultCause 9 + bit t.forcedCause 10

/-- FORCE_TRIP and CLEAR_TRIP, value A: the mask in bytes 0 and 1, the first cause kind in byte 2, its index in byte 3
(11.5). -/
def tripNumber (t : TripUnit) (record : TripRecord) : BitVec 64 :=
  BitVec.ofNat 64 (causesNumber t + 2 ^ 16 * causeNumber record.kind + 2 ^ 24 * record.index.toNat)

/-- The number in the `size` bytes of a record from `offset` on, the lowest address least significant (R165). -/
def fieldAt {n : Nat} (m : Vector Byte n) (offset size : Nat) : Nat :=
  (List.range size).foldr (fun i rest => (m.toList.getD (offset + i) 0).toNat + 256 * rest) 0

/-! ## Words: slots -/

/-- Whether a request's group mask names a group. -/
abbrev Grouped (r : Request) (a : Arming) : Prop := r.groupMask.getLsbD a.group.val = true

/-- How many slots satisfy a condition. -/
def count (p : SlotNumber → Bool) : BitVec 64 := BitVec.ofNat 64 ((List.finRange 256).filter p).length

/-- The code of a slot's state (11.7). -/
def stateCode (sl : Slot) : BitVec 64 :=
  match sl.arming with
  | none => 0
  | some { phase := .armed _, .. } => 1
  | some { phase := .waiting _, .. } => 2
  | some { phase := .held _ _, .. } => 3

/-- The deadline or remaining time a slot holds, else 0 (R30, R40). -/
def timeOf (sl : Slot) : BitVec 64 :=
  match sl.arming with
  | some { phase := .armed d, .. } => d
  | some { phase := .waiting (some d), .. } => d
  | some { phase := .held _ (some k), .. } => k
  | _ => 0

/-- Whether a slot's report is pending. -/
abbrev pendingOf (sl : Slot) : Bool := sl.report.state == .pending

/-- The slot's expiry comes next: it holds arming `a` with deadline `d`, heads the list and is due (R45). -/
abbrev ComesDue (n : SlotNumber) (a : Arming) (d : Time) (s : State) : Prop :=
  s.slots[n].arming = some a ∧ s.deadlineList.head? = some n ∧ d ≤ s.time.now

/-- The flags of R51 that an action brings to its event. -/
def actionFlags (a : Arming) (s : State) : ReportFlags :=
  { dropped := s.actionOutcome a.action = .dropped, suppressed := s.actionOutcome a.action = .suppressed }

/-- An event of the arming at device time. -/
def occurs (event : Event) (a : Arming) (flags : ReportFlags) (s : State) : Occurrence :=
  { event := event, time := s.time.now, tag := a.tag, flags := flags }

/-- The limit after one counted event, none when it is spent (R57, R83). -/
def limitAfter (limit : BitVec 16) (n : Nat) : Option (BitVec 16) :=
  if limit = 0 then some 0 else if limit.toNat ≤ n then none else some (BitVec.ofNat 16 (limit.toNat - n))

/-- The expiry row of an arming (R50). -/
def rowOf (n : SlotNumber) (a : Arming) : Option Instr :=
  match a.part, a.phase with
  | .once, .armed _ => some (.onceExpiry n)
  | .repeating _, .armed _ => some (.repeatExpiry n)
  | .guard g, .armed _ => some (if g.stage = .normal then .guardWarn n else .guardFault n)
  | .waitEdge _, .armed _ => some (.afterEdgeExpiry n)
  | .waitEdge _, .waiting (some _) => some (.timeout n)
  | _, _ => none

/-- The slots of a list are taken one after another by their expiry rows, each the due head of the deadline list when its
turn comes. -/
def TakenInOrder : List SlotNumber → State → State → Prop
  | [], u, t => t = u
  | n :: rest, u, t => ∃ (a : Arming) (d : Time) (c : Instr) (v : State),
      ComesDue n a d u ∧ deadlineOf u.slots[n] = some d ∧ rowOf n a = some c ∧ exec c u = .next v ∧ TakenInOrder rest v t

/-! ## Words: edges (R77, R82 to R85, R89) -/

/-- What a counted event leaves of a WAIT_EDGE slot: WAITING with the limit counted and its timeout restarted from now, or
nothing when the limit is spent or the timeout cannot be placed (R83, R84, R86, R89). -/
def waitsAgain (a : Arming) (e : EdgePart) (now : Time) : Option Arming :=
  match limitAfter e.limit 1, e.timeout with
  | none, _ => none
  | some left, none => some { a with part := .waitEdge { e with limit := left }, phase := .waiting none }
  | some left, some k =>
    if 2 ^ 64 ≤ now.toNat + k.toNat then none
    else some { a with
      part := .waitEdge { e with limit := left }
      phase := .waiting (some (BitVec.ofNat 64 (now.toNat + k.toNat))) }

/-- What a slot that takes an edge with edge time `now` makes of it: without an after-edge delay a capture with its action,
its limit and its timeout; with one, ARMED until the delay has run, or IDLE with a CAPTURE where the delay cannot be placed
(R84, R85, R89). -/
def edgeTaken (m : SlotNumber) (a : Arming) (e : EdgePart) (now : Time) (s : State) : State :=
  let f := { e with lastCapture := some now }
  match e.delay with
  | none =>
    let after := waitsAgain a f now
    ((s.performAction a.action).putArming m after).recordEvent (.slot m)
      { occurs .capture a { actionFlags a s with final := decide (after = none) } s with time := now }
      (a.policy == .every || (a.policy == .final && decide (after = none)))
  | some k =>
    if now.toNat + k.toNat < 2 ^ 64 then
      s.putArming m (some { a with part := .waitEdge f, phase := .armed (BitVec.ofNat 64 (now.toNat + k.toNat)) })
    else
      (s.putArming m none).recordEvent (.slot m) { occurs .capture a { final := true } s with time := now }
        (a.policy != .none)

/-- One offer of an edge on line `n`: the slot takes it when it is WAITING on that line with a matching edge select, and
else passes it by (R82). A deadline that it places at or before device time, which only a time step between the acceptance
and the offer can make of it, is taken at once by the expiry of the slot's state and mode (R46; log 38). -/
def offered (n : InputNumber) (edge : EdgeUnderWay) (m : SlotNumber) (s : State) : State :=
  match s.slots[m].arming with
  | some { part := .waitEdge e, phase := .waiting d, anchoring, action, policy, group, tag } =>
    if e.input = n ∧ (e.select = .any ∨ e.select = if edge.level then .rise else .fall) then
      let t := edgeTaken m { part := .waitEdge e, phase := .waiting d, anchoring, action, policy, group, tag } e edge.time s
      if (deadlineOf t.slots[m]).any fun d => decide (d ≤ s.time.now) then takeExpiry m t else t
    else s
  | _ => s

/-- The edge that an EDGE on a line takes up, with the line's record as the acceptance leaves it: the edge under way, or
that of a candidate at its full count, accepted now with device time as its edge time (R76, R77). -/
def Begun (now : Time) (l b : InputLine) (e : EdgeUnderWay) : Prop :=
  (l.edge = some e ∧ b = l)
    ∨ (l.edge = none ∧ ∃ c, l.candidate = some c ∧ l.filter.toNat ≤ c.count
        ∧ e = { level := c.level, time := now, next := 0, statusDue := true }
        ∧ b = { l with qualified := some c.level, candidate := none })

/-- An edge as its line keeps it: not at all once every offer is made and the trip-level status has taken it. -/
def unfinished (e : EdgeUnderWay) : Option EdgeUnderWay :=
  if e.next.val = 256 ∧ e.statusDue = false then none else some e

/-! ## Words: the register window -/

/-- The state after a command that CONTROL ignores (R118). -/
def ignoring (s : State) : State := { s with control := { s.control with cmdIgnored := true } }

end Sys2Proof.Claims

/-! # The machine as a whole -/

section
open Sys2Proof Sys2Proof.Machine Sys2Proof.Claims

/-- The step takes the command at the front of the queue and runs it with the queue's rest. -/
def Sys2Proof.Claims.StepRunsTheFrontCommand : Prop :=
  ∀ (c : Instr) (rest : List Instr) (s : State), s.pending = c :: rest → step s = exec c { s with pending := rest }

/-- On an empty queue a REFCLK period passes that completes no tick, and nothing else changes. The model's choice
(log 3). -/
def Sys2Proof.Claims.IdleStepCountsARefclkPeriod : Prop :=
  ∀ s : State, s.pending = [] →
    (s.time.phase + 1 < s.time.tickLength → step s = .next { s with time := { s.time with phase := s.time.phase + 1 } })
      ∧ (s.time.tickLength ≤ s.time.phase + 1 → step s = .next s)

/-- One step takes the command at the front of the queue, or idles for a REFCLK period on an empty one (the idling is the
model's choice, log 3). -/
def Obligations.StepRunsTheFrontCommandOrIdles : Prop :=
  StepRunsTheFrontCommand ∧ IdleStepCountsARefclkPeriod

/-- Power-on reset from any state: the values of the tables of 1, 2.1, 4.1, 5.1, 7.1, 9.1 and 10.1 and of R117. Three points
are the model's choice: no edge is under way on any line, which no table of the specification lists (log 7), and the queue
of commands and the count of free values, the model's own, are kept (log 27). -/
def Obligations.PowerOnResetGivesTheResetValues : Prop :=
  ∀ s : State, ∃ t : State, exec .powerOnReset s = .next t
    ∧ (t.time.now = 0 ∧ t.time.counting = .stopped ∧ t.time.divider = 1 ∧ t.time.phase = 0)
    ∧ (∀ n : SlotNumber, t.slots[n].arming = none ∧ t.slots[n].generation = 0 ∧ t.slots[n].report.state = .none
        ∧ t.slots[n].report.fields = { event := none, time := 0, tag := 0, count := 0, flags := {} })
    ∧ (∀ g : GroupNumber, t.groups[g] = .running) ∧ t.deadlineList = []
    ∧ (∀ n : LineNumber, t.lines[n].drive = none ∧ t.lines[n].defaultLevel = false ∧ t.lines[n].safeLevel = false
        ∧ t.lines[n].participates = false) ∧ t.configurationPresent = false
    ∧ (∀ n : InputNumber, t.inputs[n].raw = none ∧ t.inputs[n].qualified = none ∧ t.inputs[n].candidate = none
        ∧ t.inputs[n].edge = none ∧ t.inputs[n].filter = 0 ∧ t.inputs[n].tripLevel = .none ∧ t.inputs[n].active = false)
    ∧ (t.trip.state = .clear ∧ causesNumber t.trip = 0 ∧ t.trip.record = { kind := .none, index := 0, time := 0 }
        ∧ t.faultAsserted = false)
    ∧ (t.fetch.base = 0 ∧ t.fetch.entries = 16 ∧ t.fetch.head = 0 ∧ t.fetch.tail = 0 ∧ t.fetch.inFlight = none)
    ∧ t.held = none
    ∧ (t.writer.base = 0 ∧ t.writer.entries = 16 ∧ t.writer.writeIndex = 0 ∧ t.writer.completeHead = 0
        ∧ t.writer.nextSequence = 1 ∧ t.writer.inFlight = none ∧ t.writer.fairness = 0 ∧ t.writer.fenceMark = none
        ∧ t.writer.threshold = 1 ∧ t.writer.delay = 0 ∧ t.writer.moderationCount = 0 ∧ t.writer.delayTimer = none
        ∧ t.writer.queue = [] ∧ t.writer.controllerEntry = .empty)
    ∧ (t.control.state = .halted ∧ t.control.origin = none ∧ t.control.faultCause = .none
        ∧ t.control.configAddress = 0 ∧ t.control.tripOnFault = false)
    ∧ (∀ x : Register, t.readRegister x = 0) ∧ t.intAsserted = false
    ∧ t.pending = s.pending ∧ t.freeCount = s.freeCount

/-- A RESET written to CONTROL, in every state: what each block takes and what it keeps (R6, R22, R23, R63, R81, R115,
R129, R132, R146, R162). -/
def Obligations.ControllerResetTakesAndKeeps : Prop :=
  ∀ s : State, ∃ t : State, exec .reset s = .next t
    ∧ t.time = { s.time with now := 0, counting := .stopped }
    ∧ (∀ n : SlotNumber, t.slots[n] = { generation := s.slots[n].generation, arming := none, report := .empty })
    ∧ (∀ g : GroupNumber, t.groups[g] = .running) ∧ t.deadlineList = []
    ∧ (∀ n : LineNumber, t.lines[n] =
        { s.lines[n] with drive := s.lines[n].drive.map fun d => { level := d.level, pulseEnd := none } })
    ∧ t.configurationPresent = false ∧ t.inputs = s.inputs ∧ t.trip = s.trip
    ∧ (t.fetch.base = s.fetch.base ∧ t.fetch.entries = s.fetch.entries ∧ t.fetch.head = 0 ∧ t.fetch.tail = 0
        ∧ t.fetch.inFlight = none)
    ∧ t.held = none
    ∧ (t.writer.base = s.writer.base ∧ t.writer.entries = s.writer.entries ∧ t.writer.threshold = s.writer.threshold
        ∧ t.writer.delay = s.writer.delay ∧ t.writer.writeIndex = 0 ∧ t.writer.completeHead = 0
        ∧ t.writer.nextSequence = 1 ∧ t.writer.inFlight = none ∧ t.writer.fairness = 0 ∧ t.writer.fenceMark = none
        ∧ t.writer.moderationCount = 0 ∧ t.writer.delayTimer = none ∧ t.writer.queue = []
        ∧ t.writer.controllerEntry = .empty)
    ∧ (t.control.state = .halted ∧ t.control.origin = none ∧ t.control.faultCause = .none ∧ t.control.cmdIgnored = false
        ∧ t.control.tailRange = false ∧ t.control.headRange = false ∧ t.control.intCause = 0 ∧ t.control.intEnable = 0
        ∧ t.control.configRead = none ∧ t.control.heldBlock = none ∧ t.control.configLo = s.control.configLo
        ∧ t.control.configHi = s.control.configHi ∧ t.control.tripOnFault = s.control.tripOnFault)
    ∧ t.intAsserted = false ∧ t.pending = s.pending ∧ t.freeCount = s.freeCount

/-! # Device time -/

/-- A tick moves the time base: the phase returns to 0, the next tick has the length of the divider in force, and device
time follows its counting state. Whatever work the tick before left, a tick keeps generations, groups, the fetch unit, the
held response, the write in flight but for its note and the controller but for its interrupt causes (R1, R2, R3, R5). That
TICK completes the tick whatever the phase shows (log 4) and first ends the work left over (log 5) is the model's choice. -/
def Obligations.TickMovesTheTimeBase : Prop :=
  ∀ (pins : BitVec 8) (s : State), ∃ t : State, exec (.tick pins) s = .next t
    ∧ t.time.phase = 0 ∧ t.time.tickLength = s.time.divider ∧ t.time.divider = s.time.divider
    ∧ (s.time.counting = .stopped → t.time.now = s.time.now ∧ t.time.counting = .stopped)
    ∧ (s.time.counting = .ended → t.time.now = s.time.now ∧ t.time.counting = .ended)
    ∧ (s.time.counting = .counting → s.time.now.toNat < 2 ^ 64 - 2 →
        t.time.now.toNat = s.time.now.toNat + 1 ∧ t.time.counting = .counting)
    ∧ (s.time.counting = .counting → s.time.now.toNat = 2 ^ 64 - 2 →
        t.time.now.toNat = 2 ^ 64 - 1 ∧ t.time.counting = .ended)
    ∧ (∀ n : SlotNumber, t.slots[n].generation = s.slots[n].generation) ∧ t.groups = s.groups ∧ t.fetch = s.fetch
    ∧ t.held = s.held ∧ t.configurationPresent = s.configurationPresent ∧ t.pending = s.pending
    ∧ t.control = { s.control with intCause := t.control.intCause }
    ∧ t.writer.inFlight.map (·.contents) = s.writer.inFlight.map (·.contents)
    ∧ t.writer.writeIndex = s.writer.writeIndex ∧ t.writer.completeHead = s.writer.completeHead
    ∧ t.writer.nextSequence = s.writer.nextSequence

/-- A tick with no work due from the tick before samples the eight pins, passes each sample through its line's filter,
counts the delay timer down, advances device time and changes nothing else (R1, R3, R75, R76, R164). Three points are the
model's choice: a candidate that reaches its full count waits for its EDGE (log 7), a delay timer that reaches 0 waits for
its expiry (log 14), and the first sample keeps the trip-level status (log 28). -/
def Obligations.TickSamplesAndFilters : Prop :=
  ∀ (pins : BitVec 8) (s : State),
    (∀ n ∈ s.deadlineList, ∀ d, deadlineOf s.slots[n] = some d → s.time.now < d) →
    (∀ (n : LineNumber) e, pulseOf n s = some e → s.time.now < e.time) →
    (∀ (n : InputNumber) c, s.inputs[n].candidate = some c → c.count < s.inputs[n].filter.toNat) →
    (∀ n : InputNumber, s.inputs[n].edge = none) →
    s.writer.delayTimer ≠ some 0 →
    ∃ t : State, exec (.tick pins) s = .next t
      ∧ t = { s with
              time := t.time, inputs := t.inputs
              writer := { s.writer with delayTimer := s.writer.delayTimer.map (· - 1) } }
      ∧ ∀ n : InputNumber,
          let sample := pins.getLsbD n.val
          t.inputs[n].raw = some sample ∧ t.inputs[n].filter = s.inputs[n].filter
            ∧ t.inputs[n].tripLevel = s.inputs[n].tripLevel ∧ t.inputs[n].active = s.inputs[n].active
            ∧ t.inputs[n].edge = none
            ∧ (s.inputs[n].qualified = none →
                t.inputs[n].qualified = some sample ∧ t.inputs[n].candidate = s.inputs[n].candidate)
            ∧ (s.inputs[n].qualified ≠ none → t.inputs[n].qualified = s.inputs[n].qualified)
            ∧ (s.inputs[n].qualified = some sample → t.inputs[n].candidate = none)
            ∧ (s.inputs[n].qualified = some (!sample) → s.inputs[n].candidate = none →
                t.inputs[n].candidate = some { level := sample, count := 0 })
            ∧ (s.inputs[n].qualified = some (!sample) → ∀ k, s.inputs[n].candidate = some { level := sample, count := k } →
                t.inputs[n].candidate = some { level := sample, count := k + 1 })

/-- READ_TIME answers device time and the divider in force and changes no state of the time base; with a flag set it is
refused with BAD_FIELD (R7). -/
def Obligations.ReadTimeAnswersDeviceTime : Prop :=
  ∀ (r : Request) (s : State), Arrives s → Clean r →
    (r.flags = 0 → exec (.readTime r) s = .next (responding .ordinary r
        (unnamed .ok s.time.now (BitVec.ofNat 64 s.time.divider) false) (taken s)))
      ∧ (r.flags ≠ 0 → exec (.readTime r) s = .next (responding .ordinary r (unnamed .badField 0 0 false) (taken s)))

/-- What a step by an offset answers and does to device time (R8, R10, R14, R15): refused whole with TIME_RANGE, or taken
with the new device time in value A and in value B the number of slots whose moved deadline has been reached. What becomes
of those slots, their lines and their reports is `StepTakesWhatItReaches`. -/
def Sys2Proof.Claims.StepAnswers (c : Instr) (k : Int) (r : Request) (s : State) : Prop :=
  (¬ StepFits k s →
      exec c s = .next (responding .ordinary r (unnamed .timeRange s.time.now 0 false) (taken s)))
    ∧ (StepFits k s → ∃ (t : State) (reached : SlotNumber → Bool), exec c s = .next t
        ∧ t.time = { s.time with
            now := shifted s.time.now k
            counting := if (s.time.now.toNat : Int) + k = 2 ^ 64 - 1 then .ended
              else if s.time.counting = .ended then .counting else s.time.counting }
        ∧ (∀ n d, MovedTo s.slots[n] k d →
            (reached n = true ↔ ∃ x, s.slots[n].arming ≠ none ∧ d = some x ∧ x ≤ shifted s.time.now k))
        ∧ t.held = (responding .ordinary r
            (unnamed .ok (shifted s.time.now k) (BitVec.ofNat 64 (s.deadlineList.filter reached).length) false)
            (taken s)).held)

/-- STEP_TIME steps by the signed offset of its time value (R8, R10, R14, R15). -/
def Sys2Proof.Claims.StepTimeAnswersItsOffset : Prop :=
  ∀ (r : Request) (s : State), Arrives s → Unflagged r → r.timeValue ≠ 0 →
    StepAnswers (.stepTime r) r.timeValue.toInt r s

/-- SET_TIME to the present device time changes nothing; to another it is a step by the whole difference (R9). -/
def Sys2Proof.Claims.SetTimeStepsByTheDifference : Prop :=
  ∀ (r : Request) (s : State), Arrives s → Unflagged r →
    (r.timeValue = s.time.now →
        exec (.setTime r) s = .next (responding .ordinary r (unnamed .ok s.time.now 0 false) (taken s)))
      ∧ (r.timeValue ≠ s.time.now →
          StepAnswers (.setTime r) ((r.timeValue.toNat : Int) - (s.time.now.toNat : Int)) r s)

/-- STEP_TIME and SET_TIME: refused whole or taken whole, with the new device time and the number of slots reached. That
this holds also while offers of an edge are still to be made is the model's reading of R17 and R82 (log 38, DEDUCED; the
record of the edge is log 7). -/
def Obligations.TimeStepsAnswerTheirOffset : Prop :=
  StepTimeAnswersItsOffset ∧ SetTimeStepsByTheDifference

/-- The command is a STEP_TIME by `k`, or a SET_TIME whose difference is `k` (R8, R9). -/
def Sys2Proof.Claims.StepsBy (c : Instr) (k : Int) (r : Request) (s : State) : Prop :=
  c = .stepTime r ∧ k = r.timeValue.toInt ∨ c = .setTime r ∧ k = (r.timeValue.toNat : Int) - s.time.now.toNat

/-- A STEP_TIME, or a SET_TIME by its difference, that reaches no deadline moves exactly the deadlines of REL slots and
guards, the last renew times of guards, not below 0, and the pulse ends of lines, taking a pulse end still due; it keeps
everything else, and value B is 0 (R9, R11, R12, R13, R14). That an edge under way is among what it keeps is the model's
reading (log 38). -/
def Sys2Proof.Claims.StepMovesWhatItDoesNotReach : Prop :=
  ∀ (r : Request) (s : State) (c : Instr) (k : Int), Arrives s → Unflagged r → StepsBy c k r s → k ≠ 0 →
    StepFits k s →
    (∀ (n : SlotNumber) d x, MovedTo s.slots[n] k d → s.slots[n].arming ≠ none → d = some x →
      shifted s.time.now k < x) →
    ∃ t : State, exec c s = .next t
      ∧ t = { responding .ordinary r (unnamed .ok (shifted s.time.now k) 0 false) (taken s) with
              time := t.time, slots := t.slots, lines := t.lines, deadlineList := t.deadlineList }
      ∧ (∀ n : SlotNumber, SlotStepped k s.slots[n] t.slots[n])
      ∧ ∀ n : LineNumber, t.lines[n] = lineStepped s.time.now k s.lines[n]

/-- A time step in its parts (R15): device time and counting state take their new values, deadlines, last renew times and
pulse ends are moved, a pulse end still due is taken, the list is brought into order at the new time, and then every slot
that the step has reached is taken by its expiry row, in list order from the head, at the new device time; value B is
their number (R5, R8, R11 to R15). That an edge under way is kept is the model's reading (log 38). -/
def Sys2Proof.Claims.StepTakesWhatItReaches : Prop :=
  ∀ (r : Request) (s : State) (c : Instr) (k : Int), Arrives s → Unflagged r → StepsBy c k r s → k ≠ 0 →
    StepFits k s → DeadlineListSound s → SlotStatesSound s → DeadlinesAhead s →
    ∃ u t : State,
      exec c s = .next (responding .ordinary r
        (unnamed .ok (shifted s.time.now k) (BitVec.ofNat 64 (dueIn u).length) false) t)
      ∧ u = { taken s with time := u.time, slots := u.slots, lines := u.lines, deadlineList := u.deadlineList }
      ∧ u.time = { s.time with
          now := shifted s.time.now k
          counting := if (s.time.now.toNat : Int) + k = 2 ^ 64 - 1 then .ended
            else if s.time.counting = .ended then .counting else s.time.counting }
      ∧ (∀ n : SlotNumber, SlotStepped k s.slots[n] u.slots[n])
      ∧ (∀ n : LineNumber, u.lines[n] = lineStepped s.time.now k s.lines[n])
      ∧ DeadlineListSound u ∧ TakenInOrder (dueIn u) u t

/-- What a time step moves, keeps and takes (R8, R9, R11 to R15). The states in which an edge is under way are covered too:
the step is taken there as in any other state, and the edge and its edge time are kept with the input lines. No rule says
that of an edge under way: its record is the model's own (log 7), and that a step may fall between two of its offers and
leaves its edge time as it is is the model's reading of R17 and R82 (log 38, DEDUCED). -/
def Obligations.StepTimeMovesDeadlinesAndPulseEnds : Prop :=
  StepMovesWhatItDoesNotReach ∧ StepTakesWhatItReaches

/-! # Timer slots -/

/-- The mode part that an ARM sets up (R26 part 3, R91), read from the fields its mode reads. -/
def Sys2Proof.Claims.ArmPart (r : Request) (now : Time) (part : ModePart) : Prop :=
  (r.mode.toNat = 1 → part = .once)
    ∧ (r.mode.toNat = 2 → part = .repeating
        { period := r.period, limit := r.limit, staged := none
          latePolicy := if r.latePolicy = 0 then .onGrid else .restart })
    ∧ (r.mode.toNat = 3 → part = .guard
        { period := r.period, stage := .normal, grace := r.grace, window := r.delay, lastRenew := now
          tripOnFault := r.flags.getLsbD 5 })
    ∧ (r.mode.toNat = 4 → ∃ e : EdgePart, part = .waitEdge e ∧ e.input.val = r.inputLine.toNat
        ∧ e.select = (if r.edgeSelect = 1 then .rise else if r.edgeSelect = 2 then .fall else .any)
        ∧ e.timeout = (if r.flags.getLsbD 9 then some r.grace else none)
        ∧ e.delay = (if r.flags.getLsbD 10 then some r.delay else none)
        ∧ e.lastCapture = none ∧ e.limit = r.limit)

/-- The fields that an ARM of any mode sets up from its request besides its mode part: anchoring, action, report policy,
group and tag (R20, R21, R26). -/
def Sys2Proof.Claims.ArmedFrom (r : Request) (g : GroupNumber) (a : Arming) : Prop :=
  a.group = g ∧ a.tag = r.tag
    ∧ a.anchoring = (if r.mode.toNat ≠ 3 ∧ r.flags.getLsbD 1 = true then .abs else .rel)
    ∧ a.policy = (if r.reportPolicy = 0 then .every else if r.reportPolicy = 1 then .final else .none)
    ∧ (r.flags.getLsbD 4 = false → a.action = none)
    ∧ (r.flags.getLsbD 4 = true → ∃ x : Action, a.action = some x ∧ x.line.val = r.outputLine.toNat
        ∧ (r.actionKind = 1 → x.kind = .set) ∧ (r.actionKind = 2 → x.kind = .clear)
        ∧ (r.actionKind = 3 → x.kind = .toggle) ∧ (r.actionKind = 4 → x.kind = .pulseHigh r.pulseWidth)
        ∧ (r.actionKind = 5 → x.kind = .pulseLow r.pulseWidth))

/-- The first deadline of an ARM, or the timeout deadline of a WAIT_EDGE one, where it lies in range (R25). -/
def Sys2Proof.Claims.FirstDeadline (r : Request) (now : Time) (deadline : Option Time) : Prop :=
  (r.mode.toNat = 4 → r.flags.getLsbD 9 = false → deadline = none)
    ∧ (r.mode.toNat = 4 → r.flags.getLsbD 9 = true → ∃ d, deadline = some d ∧ d.toNat = now.toNat + r.grace.toNat)
    ∧ (r.mode.toNat ≠ 4 → r.flags.getLsbD 0 = true → deadline = some r.timeValue)
    ∧ (r.mode.toNat ≠ 4 → r.flags.getLsbD 0 = false →
        ∃ d, deadline = some d ∧ d.toNat = now.toNat + r.timeValue.toNat)

/-- The first deadline of an ARM would lie beyond the range (check 3 of R25). -/
def Sys2Proof.Claims.FirstDeadlineBeyond (r : Request) (now : Time) : Prop :=
  (r.mode.toNat = 4 ∧ r.flags.getLsbD 9 = true ∧ 2 ^ 64 ≤ now.toNat + r.grace.toNat)
    ∨ (r.mode.toNat ≠ 4 ∧ r.flags.getLsbD 0 = false ∧ 2 ^ 64 ≤ now.toNat + r.timeValue.toNat)

/-- An accepted ARM whose first deadline lies later than device time, or whose group is HELD: the generation goes up by
one, the record is set up from the request with an empty report, the slot enters ARMED, WAITING or HELD, and the answer
names it with the state before and the first deadline (R19, R20, R25 to R28, R91). -/
def Obligations.ArmSetsUpTheSlot : Prop :=
  ∀ (r : Request) (s : State) (n : SlotNumber) (g : GroupNumber) (deadline : Option Time),
    Arrives s → Valid .arm r s → Names r n → r.group.toNat = g.val →
    s.slots[n].report.state = .none → (s.slots[n].arming = none ∨ r.flags.getLsbD 2 = true) →
    FirstDeadline r s.time.now deadline →
    ((s.groups[g] = .held ∧ r.mode.toNat ≠ 3) ∨ ∀ d, deadline = some d → s.time.now < d) →
    ∃ (t : State) (a : Arming), exec (.arm r) s = .next t
      ∧ t = { responding (.acceptedArm n) r
                (naming n (s.slots[n].generation + 1) .ok (stateCode s.slots[n]) (deadline.getD 0) false) (taken s) with
              slots := t.slots, deadlineList := t.deadlineList }
      ∧ t.slots[n] = { generation := s.slots[n].generation + 1, arming := some a, report := .empty }
      ∧ (∀ m : SlotNumber, m ≠ n → t.slots[m] = s.slots[m])
      ∧ ArmPart r s.time.now a.part ∧ ArmedFrom r g a
      ∧ (s.groups[g] = .running ∨ r.mode.toNat = 3 →
          (r.mode.toNat = 4 → a.phase = .waiting deadline) ∧ (r.mode.toNat ≠ 4 → ∀ d, deadline = some d → a.phase = .armed d))
      ∧ (s.groups[g] = .held → r.mode.toNat ≠ 3 →
          a.phase = .held (if r.mode.toNat = 4 then .waiting else .armed)
            (deadline.map fun d => BitVec.ofNat 64 (d.toNat - s.time.now.toNat)))

/-- An ARM that passes validation is refused with REPORT_PENDING, then SLOT_BUSY, then TIME_RANGE, the first that applies,
and changes no state; the answer names the slot (R25). -/
def Obligations.ArmIsRefusedInOrder : Prop :=
  ∀ (r : Request) (s : State) (n : SlotNumber), Arrives s → Valid .arm r s → Names r n →
    (s.slots[n].report.state = .pending → exec (.arm r) s = .next (responding .ordinary r
        (naming n s.slots[n].generation .reportPending (stateCode s.slots[n]) 0 true) (taken s)))
      ∧ (s.slots[n].report.state = .none → s.slots[n].arming ≠ none → r.flags.getLsbD 2 = false →
          exec (.arm r) s = .next (responding .ordinary r
            (naming n s.slots[n].generation .slotBusy (stateCode s.slots[n]) 0 false) (taken s)))
      ∧ (s.slots[n].report.state = .none → (s.slots[n].arming = none ∨ r.flags.getLsbD 2 = true) →
          FirstDeadlineBeyond r s.time.now →
          exec (.arm r) s = .next (responding .ordinary r
            (naming n s.slots[n].generation .timeRange s.time.now 0 false) (taken s)))

/-- A ONCE ARM without an action, in a RUNNING group, whose first deadline is at or before device time, is taken within
the ARM: the slot is IDLE again under its new generation, its event carries FINAL and, when the deadline is past, LATE,
and the report is pending except under policy NONE (R26 part 5, R28, R46, R49, R54). -/
def Sys2Proof.Claims.OnceArmIsTakenAtOnce : Prop :=
  ∀ (r : Request) (s : State) (n : SlotNumber) (g : GroupNumber) (d : Time),
    Arrives s → Valid .arm r s → Names r n → r.group.toNat = g.val → r.mode.toNat = 1 → r.flags.getLsbD 4 = false →
    s.slots[n].report.state = .none → (s.slots[n].arming = none ∨ r.flags.getLsbD 2 = true) →
    FirstDeadline r s.time.now (some d) → s.groups[g] = .running → d ≤ s.time.now →
    ∃ t : State, exec (.arm r) s = .next t
      ∧ t = { responding (.acceptedArm n) r
                (naming n (s.slots[n].generation + 1) .ok (stateCode s.slots[n]) d false) (taken s) with
              slots := t.slots, deadlineList := t.deadlineList
              writer := { s.writer with
                queue := if r.reportPolicy = 2 then s.writer.queue else s.writer.queue ++ [.slot n] } }
      ∧ (∀ m : SlotNumber, m ≠ n → t.slots[m] = s.slots[m])
      ∧ t.slots[n].arming = none ∧ t.slots[n].generation = s.slots[n].generation + 1
      ∧ t.slots[n].report.state = (if r.reportPolicy = 2 then .none else .pending)
      ∧ t.slots[n].report.fields =
          { event := some .expiry, time := s.time.now, tag := r.tag, count := 1
            flags := { final := true, late := decide (d < s.time.now) } }

/-- An accepted ARM of any mode whose slot is not placed in HELD and whose first deadline, or timeout deadline, is at or
before device time: the slot is set up from the request under its new generation, and its expiry is taken within the ARM
(R20, R26, R46). -/
def Sys2Proof.Claims.AnyArmIsTakenAtOnce : Prop :=
  ∀ (r : Request) (s : State) (n : SlotNumber) (g : GroupNumber) (d : Time),
    Arrives s → Valid .arm r s → Names r n → r.group.toNat = g.val →
    s.slots[n].report.state = .none → (s.slots[n].arming = none ∨ r.flags.getLsbD 2 = true) →
    FirstDeadline r s.time.now (some d) → (s.groups[g] = .running ∨ r.mode.toNat = 3) → d ≤ s.time.now →
    ∃ a : Arming, ArmPart r s.time.now a.part ∧ ArmedFrom r g a
      ∧ a.phase = (if r.mode.toNat = 4 then .waiting (some d) else .armed d)
      ∧ exec (.arm r) s = .next (responding (.acceptedArm n) r
          (naming n (s.slots[n].generation + 1) .ok (stateCode s.slots[n]) d false)
          (takeExpiry n ((taken s).putSlot n
            { generation := s.slots[n].generation + 1, arming := some a, report := .empty })))

/-- An ARM whose first deadline has come is taken within the ARM (R26, R28, R46). That REPORT_WAS_PENDING is clear in its
answer, whatever the expiry made of the report, is the model's choice (log 25). -/
def Obligations.ArmTakesAnExpiredDeadlineAtOnce : Prop :=
  OnceArmIsTakenAtOnce ∧ AnyArmIsTakenAtOnce

/-- CANCEL, the first case that applies: STALE, NOT_ARMED, or the arming ended with the report pending and marked CANCELLED
or emptied, a report write in flight noting it (R30, R156). -/
def Obligations.CancelEndsAnArming : Prop :=
  ∀ (r : Request) (s : State) (n : SlotNumber), Arrives s → Valid .cancel r s → Names r n →
    let stale := r.flags.getLsbD 3 = true ∧ r.expectedGen ≠ s.slots[n].generation
    let sl := s.slots[n]
    (stale → exec (.cancel r) s = .next (responding .ordinary r
        (naming n sl.generation .stale (stateCode sl) 0 (pendingOf sl)) (taken s)))
      ∧ (¬ stale → sl.arming = none → exec (.cancel r) s = .next (responding .ordinary r
          (naming n sl.generation .notArmed 0 0 (pendingOf sl)) (taken s)))
      ∧ (¬ stale → sl.arming ≠ none → ∃ t : State, exec (.cancel r) s = .next t
          ∧ t = { responding .ordinary r (naming n sl.generation .ok (stateCode sl) (timeOf sl) (pendingOf sl)) (taken s) with
                  slots := t.slots, deadlineList := t.deadlineList
                  writer := { s.writer with inFlight := t.writer.inFlight } }
          ∧ (∀ m : SlotNumber, m ≠ n → t.slots[m] = s.slots[m])
          ∧ t.slots[n].arming = none ∧ t.slots[n].generation = sl.generation
          ∧ (sl.report.state = .none → t.slots[n].report = .empty ∧ t.writer.inFlight = s.writer.inFlight)
          ∧ (sl.report.state = .pending →
              t.slots[n].report = { sl.report with fields :=
                { sl.report.fields with flags := { sl.report.fields.flags with cancelled := true } } }
              ∧ t.writer.inFlight = s.writer.inFlight.map fun w =>
                  if w.carries (.slot n) then { w with cancelNoted := true } else w))

/-- CANCEL_GROUP ends the arming of every slot not IDLE of a named group as CANCEL does, passes every other slot by,
keeps the group table and the queue, and counts the slots cancelled and those whose report was pending (R33). -/
def Obligations.CancelGroupEndsItsArmings : Prop :=
  ∀ (r : Request) (s : State), Arrives s → Unflagged r →
    let concerned : SlotNumber → Bool := fun n => s.slots[n].arming.any fun a => r.groupMask.getLsbD a.group.val
    ∃ t : State, exec (.cancelGroup r) s = .next t
      ∧ t = { responding .ordinary r
                (unnamed .ok (count concerned) (count fun n => concerned n && pendingOf s.slots[n]) false) (taken s) with
              slots := t.slots, deadlineList := t.deadlineList
              writer := { s.writer with inFlight := t.writer.inFlight } }
      ∧ (∀ n, concerned n = false → t.slots[n] = s.slots[n])
      ∧ (∀ n, concerned n = true → t.slots[n].arming = none ∧ t.slots[n].generation = s.slots[n].generation
          ∧ (s.slots[n].report.state = .none → t.slots[n].report = .empty)
          ∧ (s.slots[n].report.state = .pending →
              t.slots[n].report = { s.slots[n].report with fields :=
                { s.slots[n].report.fields with flags := { s.slots[n].report.fields.flags with cancelled := true } } }))
      ∧ t.writer.inFlight = s.writer.inFlight.map fun w =>
          if (List.finRange 256).any fun n => concerned n && pendingOf s.slots[n] && w.carries (.slot n) then
            { w with cancelNoted := true }
          else w

/-- STAGE records its change on a REPEAT slot and on no other, replacing the staged change it finds, and changes nothing
else (R34). That REPORT_WAS_PENDING is clear in its answers, also where a report is pending, is the model's choice
(log 25). -/
def Obligations.StageRecordsItsChange : Prop :=
  ∀ (r : Request) (s : State) (n : SlotNumber), Arrives s → Valid .stage r s → Names r n →
    let sl := s.slots[n]
    (sl.arming = none → exec (.stage r) s = .next (responding .ordinary r
        (naming n sl.generation .notArmed 0 0 false) (taken s)))
      ∧ (∀ a, sl.arming = some a → (∀ p, a.part ≠ .repeating p) → exec (.stage r) s = .next (responding .ordinary r
          (naming n sl.generation .wrongMode (stateCode sl) 0 false) (taken s)))
      ∧ (∀ a p, sl.arming = some a → a.part = .repeating p → ∃ (t : State) (c : StagedChange),
          exec (.stage r) s = .next t
          ∧ t = { responding .ordinary r
                    (naming n sl.generation .ok (if p.staged = none then 0 else 1) 0 false) (taken s) with
                  slots := t.slots, deadlineList := t.deadlineList }
          ∧ (∀ m : SlotNumber, m ≠ n → t.slots[m] = s.slots[m])
          ∧ t.slots[n] = { sl with arming := some { a with part := .repeating { p with staged := some c } } }
          ∧ c.period = (if r.flags.getLsbD 6 then some r.period else none)
          ∧ c.limit = (if r.flags.getLsbD 8 then some r.limit else none)
          ∧ (r.flags.getLsbD 7 = false → c.action = none)
          ∧ (r.flags.getLsbD 7 = true → r.flags.getLsbD 4 = false → c.action = some .remove)
          ∧ (r.flags.getLsbD 7 = true → r.flags.getLsbD 4 = true → ∃ x : Action, c.action = some (.replace x)
              ∧ x.line.val = r.outputLine.toNat
              ∧ (r.actionKind = 1 → x.kind = .set) ∧ (r.actionKind = 2 → x.kind = .clear)
              ∧ (r.actionKind = 3 → x.kind = .toggle) ∧ (r.actionKind = 4 → x.kind = .pulseHigh r.pulseWidth)
              ∧ (r.actionKind = 5 → x.kind = .pulseLow r.pulseWidth)))

/-- HOLD makes the named group entries HELD and suspends each ARMED or WAITING slot of them that is not a guard with the
time it had left; every other slot is kept, and value A counts those that entered HELD (R36). -/
def Obligations.HoldSuspendsItsGroups : Prop :=
  ∀ (r : Request) (s : State), Arrives s → Unflagged r →
    let concerned : SlotNumber → Bool := fun n => s.slots[n].arming.any fun a =>
      r.groupMask.getLsbD a.group.val && !a.part.isGuard && !a.phase.isHeld
    ∃ t : State, exec (.hold r) s = .next t
      ∧ t = { responding .ordinary r (unnamed .ok (count concerned) 0 false) (taken s) with
              slots := t.slots, deadlineList := t.deadlineList, groups := t.groups }
      ∧ (∀ g : GroupNumber, t.groups[g] = if r.groupMask.getLsbD g.val then .held else s.groups[g])
      ∧ (∀ n, concerned n = false → t.slots[n] = s.slots[n])
      ∧ (∀ n a, concerned n = true → s.slots[n].arming = some a →
          (∀ d, a.phase = .armed d →
            let b := { a with phase := .held .armed (some (BitVec.ofNat 64 (d.toNat - s.time.now.toNat))) }
            t.slots[n] = { s.slots[n] with arming := some b })
          ∧ ∀ d, a.phase = .waiting d →
            let b := { a with phase := .held .waiting (d.map fun d => BitVec.ofNat 64 (d.toNat - s.time.now.toNat)) }
            t.slots[n] = { s.slots[n] with arming := some b })

/-- The phase a HELD slot returns to at a RELEASE (R38). -/
def Sys2Proof.Claims.Returned (now : Time) : Phase → Phase
  | .held .armed left => .armed (BitVec.ofNat 64 (now.toNat + (left.getD 0).toNat))
  | .held .waiting left => .waiting (left.map fun k => BitVec.ofNat 64 (now.toNat + k.toNat))
  | p => p

/-- The HELD slots of the groups a request names (R38). -/
def Sys2Proof.Claims.heldIn (r : Request) (s : State) (n : SlotNumber) : Bool :=
  s.slots[n].arming.any fun a => r.groupMask.getLsbD a.group.val && a.phase.isHeld

/-- The remaining time of a slot, where it has one. -/
def Sys2Proof.Claims.leftOf (s : State) (n : SlotNumber) : Option (BitVec 64) := s.slots[n].arming.bind (·.phase.heldTime)

/-- Every HELD slot of a named group has a remaining time that device time can carry, or none (R38). -/
def Sys2Proof.Claims.ReleaseFits (r : Request) (s : State) : Prop :=
  ∀ n k, heldIn r s n = true → leftOf s n = some k → s.time.now.toNat + k.toNat < 2 ^ 64

/-- The answer of a RELEASE carried out: the slots returned and those of them with a remaining time of 0 (R38; log 15). -/
def Sys2Proof.Claims.releaseAnswer (r : Request) (s : State) : Answer :=
  unnamed .ok (count (heldIn r s)) (count fun n => heldIn r s n && leftOf s n == some 0) false

/-- What parts 1 and 2 of R38 make of groups and slots: each named entry RUNNING, each HELD slot of a named group back in
the state it was held from with its remaining time ahead, every other slot kept. -/
def Sys2Proof.Claims.Released (r : Request) (s t : State) : Prop :=
  (∀ g : GroupNumber, t.groups[g] = if r.groupMask.getLsbD g.val then .running else s.groups[g])
    ∧ (∀ n, heldIn r s n = false → t.slots[n] = s.slots[n])
    ∧ ∀ n a, heldIn r s n = true → s.slots[n].arming = some a →
        t.slots[n] = { s.slots[n] with arming := some { a with phase := Returned s.time.now a.phase } }

/-- RELEASE is refused whole when some HELD slot of a named group has a remaining time that now cannot carry. Otherwise it
makes the named entries RUNNING and answers the number of HELD slots returned and of those with a remaining time of 0;
when none of them has one and no other slot is due, each returns to the state it was held from with its remaining
time ahead (R38). A slot held from ARMED without a remaining time, which no run reaches, is left out (log 33). -/
def Sys2Proof.Claims.ReleaseReturnsItsSlots : Prop :=
  ∀ (r : Request) (s : State), Arrives s → Unflagged r → SlotStatesSound s →
    (¬ ReleaseFits r s →
        exec (.release r) s = .next (responding .ordinary r (unnamed .timeRange s.time.now 0 false) (taken s)))
      ∧ (ReleaseFits r s → ∃ t : State, exec (.release r) s = .next t
          ∧ (∀ g : GroupNumber, t.groups[g] = if r.groupMask.getLsbD g.val then .running else s.groups[g])
          ∧ t.held = (responding .ordinary r (releaseAnswer r s) (taken s)).held
          ∧ t.time = s.time
          ∧ ((∀ n, heldIn r s n = true → leftOf s n ≠ some 0) →
              (∀ n ∈ s.deadlineList, ∀ d, deadlineOf s.slots[n] = some d → s.time.now < d) →
              t = { responding .ordinary r (releaseAnswer r s) (taken s) with
                    slots := t.slots, deadlineList := t.deadlineList, groups := t.groups }
              ∧ Released r s t))

/-- A RELEASE carried out in its parts (R38): the named entries and the held slots return, and then every slot whose deadline
is now, those with a remaining time of 0 among them, is taken by its expiry row in list order from the head. That a slot
of another group still due is taken with them is the model's choice (log 15). -/
def Sys2Proof.Claims.ReleaseTakesWhatIsDue : Prop :=
  ∀ (r : Request) (s : State), Arrives s → Unflagged r → ReleaseFits r s →
    DeadlineListSound s → SlotStatesSound s → DeadlinesAhead s →
    ∃ u t : State, exec (.release r) s = .next (responding .ordinary r (releaseAnswer r s) t)
      ∧ u = { taken s with slots := u.slots, deadlineList := u.deadlineList, groups := u.groups }
      ∧ Released r s u ∧ DeadlineListSound u ∧ TakenInOrder (dueIn u) u t

/-- RELEASE is refused whole, or returns its slots and takes those that are due (R38; logs 15 and 33). -/
def Obligations.ReleaseResumesItsGroups : Prop :=
  ReleaseReturnsItsSlots ∧ ReleaseTakesWhatIsDue

/-- QUERY_SLOT changes no state and answers the slot as it stands: value B holds state, mode, time present, guard stage,
limit left, staged and held-from at their byte positions (R40, R167). -/
def Obligations.QuerySlotAnswersTheRecord : Prop :=
  ∀ (r : Request) (s : State) (n : SlotNumber), Arrives s → Unflagged r → Names r n →
    ∃ b : BitVec 64,
      exec (.querySlot r) s = .next (responding .ordinary r
        (naming n s.slots[n].generation .ok (timeOf s.slots[n]) b (pendingOf s.slots[n])) (taken s))
      ∧ (b.extractLsb' 0 8).zeroExtend 64 = stateCode s.slots[n]
      ∧ (s.slots[n].arming = none → b.extractLsb' 8 48 = 0 ∧ b.extractLsb' 56 8 = 1)
      ∧ ∀ a, s.slots[n].arming = some a →
          (a.part = .once → b.extractLsb' 8 8 = 1 ∧ b.extractLsb' 24 8 = 0 ∧ b.extractLsb' 32 16 = 0 ∧ b.extractLsb' 48 8 = 0)
          ∧ (∀ p, a.part = .repeating p → b.extractLsb' 8 8 = 2 ∧ b.extractLsb' 24 8 = 0 ∧ b.extractLsb' 32 16 = p.limit
              ∧ b.extractLsb' 48 8 = if p.staged = none then 0 else 1)
          ∧ (∀ g, a.part = .guard g → b.extractLsb' 8 8 = 3 ∧ b.extractLsb' 32 16 = 0 ∧ b.extractLsb' 48 8 = 0
              ∧ b.extractLsb' 24 8 = if g.stage = .normal then 0 else 1)
          ∧ (∀ e, a.part = .waitEdge e → b.extractLsb' 8 8 = 4 ∧ b.extractLsb' 24 8 = 0 ∧ b.extractLsb' 32 16 = e.limit
              ∧ b.extractLsb' 48 8 = 0)
          ∧ (b.extractLsb' 16 8 = if a.phase.heldTime = none then 0 else 1)
          ∧ (∀ k, a.phase = .held .waiting k → b.extractLsb' 56 8 = 2)
          ∧ ((∀ k, a.phase ≠ .held .waiting k) → b.extractLsb' 56 8 = 1)

/-- RENEW: STALE, NOT_ARMED, WRONG_MODE and TIME_RANGE change nothing, and a renewal on time returns the guard to NORMAL
with a full period and a new last renew time (cases 1, 2, 3, 5 and 6 of R96; R98). -/
def Obligations.RenewReturnsAGuardToNormal : Prop :=
  ∀ (r : Request) (s : State) (n : SlotNumber), Arrives s → Valid .renew r s → Names r n →
    let sl := s.slots[n]
    let stale := r.flags.getLsbD 3 = true ∧ r.expectedGen ≠ sl.generation
    let answer := fun status a b => responding .ordinary r (naming n sl.generation status a b (pendingOf sl)) (taken s)
    (stale → exec (.renew r) s = .next (answer .stale (stateCode sl) 0))
      ∧ (¬ stale → sl.arming = none → exec (.renew r) s = .next (answer .notArmed 0 0))
      ∧ (¬ stale → ∀ a, sl.arming = some a → (∀ g, a.part ≠ .guard g) →
          exec (.renew r) s = .next (answer .wrongMode (stateCode sl) 0))
      ∧ (¬ stale → ∀ a g, sl.arming = some a → a.part = .guard g →
          (g.window = 0 ∨ g.lastRenew.toNat + g.window.toNat ≤ s.time.now.toNat) →
          (2 ^ 64 ≤ s.time.now.toNat + g.period.toNat → exec (.renew r) s = .next (answer .timeRange s.time.now 0))
          ∧ (s.time.now.toNat + g.period.toNat < 2 ^ 64 →
              let d := BitVec.ofNat 64 (s.time.now.toNat + g.period.toNat)
              ∃ t : State, exec (.renew r) s = .next t
                ∧ t = { answer .ok d (if g.stage = .normal then 0 else 1) with
                        slots := t.slots, deadlineList := t.deadlineList }
                ∧ (∀ m : SlotNumber, m ≠ n → t.slots[m] = s.slots[m])
                ∧ let b := { a with
                    part := .guard { g with stage := .normal, lastRenew := s.time.now }, phase := .armed d }
                  t.slots[n] = { sl with arming := some b }))

/-- An early renewal advances the guard one stage: from NORMAL the warning step with EARLY, answered with the new deadline;
from WARNED, or where the grace cannot be placed, the fault step with EARLY, answered with 0. The last renew time is kept,
and REPORT_WAS_PENDING shows the report as the renewal leaves it (R94, R97, R98). -/
def Obligations.EarlyRenewEscalates : Prop :=
  ∀ (r : Request) (s : State) (n : SlotNumber) (a : Arming) (g : GuardPart), Arrives s → Valid .renew r s → Names r n →
    (r.flags.getLsbD 3 = true → r.expectedGen = s.slots[n].generation) →
    s.slots[n].arming = some a → a.part = .guard g →
    g.window ≠ 0 → s.time.now.toNat < g.lastRenew.toNat + g.window.toNat →
    let u := taken s
    let d := BitVec.ofNat 64 (s.time.now.toNat + g.grace.toNat)
    (g.stage = .normal → s.time.now.toNat + g.grace.toNat < 2 ^ 64 →
        let t := (u.putArming n (some { a with part := .guard { g with stage := .warned }, phase := .armed d })).recordEvent
          (.slot n) (occurs .guardWarn a { warned := true, early := true } s) (a.policy != .final)
        exec (.renew r) s = .next (responding .ordinary r
          (naming n s.slots[n].generation .earlyRenew d 0 (pendingOf t.slots[n])) t))
      ∧ (g.stage = .normal → 2 ^ 64 ≤ s.time.now.toNat + g.grace.toNat →
          let t := ((u.performAction a.action).putArming n none).recordEvent (.slot n)
            (occurs .guardFault a { actionFlags a s with final := true, warned := true, early := true } s) true
          let t := if g.tripOnFault then t.raise (.guard n) else t
          exec (.renew r) s = .next (responding .ordinary r
            (naming n s.slots[n].generation .earlyRenew 0 0 (pendingOf t.slots[n])) t))
      ∧ (g.stage = .warned →
          let t := ((u.performAction a.action).putArming n none).recordEvent (.slot n)
            (occurs .guardFault a { actionFlags a s with final := true, early := true } s) true
          let t := if g.tripOnFault then t.raise (.guard n) else t
          exec (.renew r) s = .next (responding .ordinary r
            (naming n s.slots[n].generation .earlyRenew 0 1 (pendingOf t.slots[n])) t))

/-! # Shared operations: actions, events, raises -/

/-- An action on a line is DROPPED where the line is not enabled, SUPPRESSED where it participates in a trip, and else
performed with the level and the pulse end of its kind; no other line and nothing else of the state changes (R51, R64,
R65). -/
def Obligations.ActionsActOnTheirLine : Prop :=
  ∀ (x : Action) (s : State),
    let t := s.performAction (some x)
    let tripped := s.lines[x.line].participates = true ∧ s.trip.state = .tripped
    let pulseEnd : BitVec 32 → Bool → Option PulseEnd := fun w level =>
      if s.time.now.toNat + w.toNat < 2 ^ 64 then some { time := BitVec.ofNat 64 (s.time.now.toNat + w.toNat), level := level }
      else none
    s.actionOutcome none = .absent ∧ s.performAction none = s
      ∧ (s.lines[x.line].drive = none → s.actionOutcome (some x) = .dropped ∧ t = s)
      ∧ (∀ d, s.lines[x.line].drive = some d → tripped → s.actionOutcome (some x) = .suppressed ∧ t = s)
      ∧ ∀ d, s.lines[x.line].drive = some d → ¬ tripped → s.actionOutcome (some x) = .performed
          ∧ t = { s with lines := t.lines }
          ∧ (∀ m : LineNumber, m ≠ x.line → t.lines[m] = s.lines[m])
          ∧ t.lines[x.line] = { s.lines[x.line] with drive := t.lines[x.line].drive }
          ∧ (x.kind = .set → t.lines[x.line].drive = some { level := true, pulseEnd := none })
          ∧ (x.kind = .clear → t.lines[x.line].drive = some { level := false, pulseEnd := none })
          ∧ (x.kind = .toggle → t.lines[x.line].drive = some { level := !d.level, pulseEnd := none })
          ∧ (∀ w, x.kind = .pulseHigh w → t.lines[x.line].drive = some { level := true, pulseEnd := pulseEnd w false })
          ∧ (∀ w, x.kind = .pulseLow w → t.lines[x.line].drive = some { level := false, pulseEnd := pulseEnd w true })

/-- An event is coalesced into its source's fields, and when it makes the report pending the source joins the tail of the
queue or, already pending, keeps its place while a write of it in flight notes the event; no other source, no arming
and no generation changes (R150, R151, R156). -/
def Obligations.EventsCoalesceAtTheirSource : Prop :=
  ∀ (src : Source) (o : Occurrence) (makesPending : Bool) (s : State),
    let t := s.recordEvent src o makesPending
    let f := (s.report src).fields
    let g := (t.report src).fields
    (g.event = some o.event ∧ g.time = o.time ∧ g.tag = o.tag ∧ g.count.toNat = min 65535 (f.count.toNat + 1)
        ∧ g.flags = { late := f.flags.late || o.flags.late
                      overrun := f.flags.overrun || o.flags.overrun
                      suppressed := f.flags.suppressed || o.flags.suppressed
                      dropped := f.flags.dropped || o.flags.dropped
                      final := f.flags.final || o.flags.final
                      cancelled := f.flags.cancelled || o.flags.cancelled
                      saturated := f.flags.saturated || o.flags.saturated || decide (f.count.toNat = 65535)
                      warned := f.flags.warned || o.flags.warned
                      early := f.flags.early || o.flags.early })
      ∧ (makesPending = false → (t.report src).state = (s.report src).state ∧ t.writer.queue = s.writer.queue
          ∧ t.writer.inFlight = s.writer.inFlight)
      ∧ (makesPending = true → (s.report src).state = .none →
          (t.report src).state = .pending ∧ t.writer.queue = s.writer.queue ++ [src]
            ∧ t.writer.inFlight = s.writer.inFlight)
      ∧ (makesPending = true → (s.report src).state = .pending →
          (t.report src).state = .pending ∧ t.writer.queue = s.writer.queue
            ∧ t.writer.inFlight = s.writer.inFlight.map fun w => if w.carries src then { w with eventNoted := true } else w)
      ∧ (∀ src', src' ≠ src → t.report src' = s.report src')
      ∧ (∀ n : SlotNumber, t.slots[n].arming = s.slots[n].arming ∧ t.slots[n].generation = s.slots[n].generation)
      ∧ t = { s with
              slots := t.slots
              writer := { s.writer with
                queue := t.writer.queue, inFlight := t.writer.inFlight, controllerEntry := t.writer.controllerEntry } }

/-- The cause set after a raise, for the four kinds of cause (R104). -/
def Sys2Proof.Claims.Raised (r : Raise) (t u : TripUnit) : Prop :=
  (∀ n : InputNumber, u.inputCauses.getLsbD n.val = (t.inputCauses.getLsbD n.val || decide (r = .input n)))
    ∧ u.guardCause = (t.guardCause || decide (r.kind = .guard))
    ∧ u.faultCause = (t.faultCause || decide (r.kind = .controllerFault))
    ∧ u.forcedCause = (t.forcedCause || decide (r.kind = .forced))

/-- A raise in CLEAR enters TRIPPED, fills the trip record, forces the safe levels, sets the TRIP interrupt cause and
records a TRIP event with the cause set as its tag; in TRIPPED it adds its cause and records its TRIP event (R69, R104,
R108, R109, R110). -/
def Obligations.RaisesTripTheDevice : Prop :=
  ∀ (r : Raise) (s : State),
    let t := s.raise r
    let tag : BitVec 64 := BitVec.ofNat 64 (causesNumber t.trip)
    t.trip.state = .tripped ∧ t.faultAsserted = true ∧ Raised r s.trip t.trip
      ∧ (s.trip.state = .tripped →
          t = { s with trip := t.trip }.recordEvent .controller
            { event := .trip, time := s.time.now, tag := tag, flags := {} } true
          ∧ t.trip.record = s.trip.record)
      ∧ (s.trip.state = .clear → ∃ lines : Vector OutputLine 16,
          t = { s with trip := t.trip, lines := lines
                       control := { s.control with intCause := s.control.intCause ||| 4 } }.recordEvent .controller
            { event := .trip, time := s.time.now, tag := tag, flags := {} } true
          ∧ t.trip.record.time = s.time.now ∧ t.trip.record.kind = r.kind
          ∧ (∀ n : InputNumber, r = .input n → t.trip.record.index.toNat = n.val)
          ∧ (∀ n : SlotNumber, r = .guard n → t.trip.record.index.toNat = n.val)
          ∧ (∀ c, r = .controllerFault c → t.trip.record.index = BitVec.ofNat 8 (faultNumber c))
          ∧ (r = .forced → t.trip.record.index = 0)
          ∧ (∀ n : LineNumber, s.lines[n].participates = false → lines[n] = s.lines[n])
          ∧ ∀ n : LineNumber, s.lines[n].participates = true → lines[n] =
              { s.lines[n] with drive := s.lines[n].drive.map fun _ => { level := s.lines[n].safeLevel, pulseEnd := none } })

/-! # Expiries -/

/-- The expiry of a ONCE slot performs its action, makes the slot IDLE and records EXPIRY with FINAL, and LATE when its
deadline is past; the report becomes pending except under policy NONE (R49, R51, R53, R54). -/
def Sys2Proof.Claims.OnceExpiryEndsTheSlot : Prop :=
  ∀ (s : State) (n : SlotNumber) (a : Arming) (d : Time),
    ComesDue n a d s → a.part = .once → a.phase = .armed d →
    exec (.onceExpiry n) s = .next (((s.performAction a.action).putArming n none).recordEvent (.slot n)
      (occurs .expiry a { actionFlags a s with final := true, late := decide (d < s.time.now) } s) (a.policy != .none))

/-- The expiry of a REPEAT slot: its action, its staged change, its next deadline and missed grid points by the late policy
under the staged period, its limit counted, and EXPIRY with OVERRUN and FINAL as they apply (R55 to R60). -/
def Obligations.RepeatExpiryKeepsItsGrid : Prop :=
  ∀ (s : State) (n : SlotNumber) (a : Arming) (p : RepeatPart) (d : Time),
    ComesDue n a d s → a.part = .repeating p → a.phase = .armed d →
    let period := ((p.staged.bind (·.period)).getD p.period)
    let limit := ((p.staged.bind (·.limit)).getD p.limit)
    let action := match p.staged.bind (·.action) with
      | none => a.action
      | some .remove => none
      | some (.replace x) => some x
    let missed := if p.latePolicy = .onGrid then (s.time.now.toNat - d.toNat) / period.toNat else 0
    let next := if p.latePolicy = .onGrid then d.toNat + (missed + 1) * period.toNat else s.time.now.toNat + period.toNat
    let after : Option Arming :=
      if 2 ^ 64 ≤ next then none
      else (limitAfter limit (1 + missed)).map fun left =>
        { a with
          action := action
          part := .repeating { period := period, limit := left, latePolicy := p.latePolicy, staged := none }
          phase := .armed (BitVec.ofNat 64 next) }
    exec (.repeatExpiry n) s = .next (((s.performAction a.action).putArming n after).recordEvent (.slot n)
      (occurs .expiry a { actionFlags a s with
          late := decide (d < s.time.now), overrun := decide (1 ≤ missed), final := decide (after = none) } s)
      (a.policy == .every || (a.policy == .final && decide (after = none))))

/-- The warning of a guard: WARNED with deadline now + G and a GUARD_WARN event, no action and no change of the last renew
time; where the grace cannot be placed, the fault step with WARNED (R92, R94, R95). -/
def Sys2Proof.Claims.GuardWarnStartsTheGrace : Prop :=
  ∀ (s : State) (n : SlotNumber) (a : Arming) (g : GuardPart) (d : Time),
    ComesDue n a d s → a.part = .guard g → g.stage = .normal → a.phase = .armed d →
    let late := decide (d < s.time.now)
    (s.time.now.toNat + g.grace.toNat < 2 ^ 64 →
        let b := { a with
          part := .guard { g with stage := .warned }
          phase := .armed (BitVec.ofNat 64 (s.time.now.toNat + g.grace.toNat)) }
        exec (.guardWarn n) s = .next ((s.putArming n (some b)).recordEvent (.slot n)
          (occurs .guardWarn a { warned := true, late := late } s) (a.policy != .final)))
      ∧ (2 ^ 64 ≤ s.time.now.toNat + g.grace.toNat →
          let t := ((s.performAction a.action).putArming n none).recordEvent (.slot n)
            (occurs .guardFault a { actionFlags a s with final := true, warned := true, late := late } s) true
          exec (.guardWarn n) s = .next (if g.tripOnFault then t.raise (.guard n) else t))

/-- The fault of a guard: its action, IDLE, a GUARD_FAULT event with FINAL that makes the report pending under every
policy, then the guard cause when trip-on-fault is set (R93, R95, R102, R105). -/
def Sys2Proof.Claims.GuardFaultEndsTheGuard : Prop :=
  ∀ (s : State) (n : SlotNumber) (a : Arming) (g : GuardPart) (d : Time),
    ComesDue n a d s → a.part = .guard g → g.stage = .warned → a.phase = .armed d →
    let t := ((s.performAction a.action).putArming n none).recordEvent (.slot n)
      (occurs .guardFault a { actionFlags a s with final := true } s) true
    exec (.guardFault n) s = .next (if g.tripOnFault then t.raise (.guard n) else t)

/-- The two steps of a guard taken by its deadline (R92, R93, R94). -/
def Obligations.GuardsWarnAndFault : Prop :=
  GuardWarnStartsTheGrace ∧ GuardFaultEndsTheGuard

/-- The expiry of an after-edge delay: the action, the limit, WAITING again with the timeout measured from now or IDLE, and
an EXPIRY event (R86, R89). -/
def Obligations.AfterEdgeExpiryWaitsAgain : Prop :=
  ∀ (s : State) (n : SlotNumber) (a : Arming) (e : EdgePart) (d : Time),
    ComesDue n a d s → a.part = .waitEdge e → a.phase = .armed d →
    let after := waitsAgain a e s.time.now
    exec (.afterEdgeExpiry n) s = .next (((s.performAction a.action).putArming n after).recordEvent (.slot n)
      (occurs .expiry a { actionFlags a s with late := decide (d < s.time.now), final := decide (after = none) } s)
      (a.policy == .every || (a.policy == .final && decide (after = none))))

/-- The timeout of a WAITING slot: IDLE without its action, whatever limit is left, and a TIMEOUT event with FINAL (R87). -/
def Sys2Proof.Claims.TimeoutEndsTheWait : Prop :=
  ∀ (s : State) (n : SlotNumber) (a : Arming) (e : EdgePart) (d : Time),
    ComesDue n a d s → a.part = .waitEdge e → a.phase = .waiting (some d) →
    exec (.timeout n) s = .next ((s.putArming n none).recordEvent (.slot n)
      (occurs .timeout a { final := true, late := decide (d < s.time.now) } s) (a.policy != .none))

/-- The expiry of a ONCE slot and the timeout of a WAITING slot end the arming (R54, R87). -/
def Obligations.FinalExpiriesEndTheSlot : Prop :=
  OnceExpiryEndsTheSlot ∧ TimeoutEndsTheWait

/-- A due slot at the head of the list is taken by the row of its kind, as the ARMs, RELEASEs and time steps take it, and by
no other expiry row; no expiry row takes a slot that is not the head, is not due, or stands IDLE or HELD: such a row
changes nothing (R45, R50; logs 6 and 21). -/
def Obligations.ExpiriesTakeTheHeadAlone : Prop :=
  ∀ (s : State) (n : SlotNumber) (c : Instr),
    c ∈ [Instr.onceExpiry n, .repeatExpiry n, .guardWarn n, .guardFault n, .afterEdgeExpiry n, .timeout n] →
    ((s.deadlineList.head? ≠ some n ∨ deadlineOf s.slots[n] = none
        ∨ ∃ d, deadlineOf s.slots[n] = some d ∧ s.time.now < d) → exec c s = .next s)
      ∧ ∀ a, s.slots[n].arming = some a →
          (rowOf n a ≠ some c → exec c s = .next s)
          ∧ ∀ d, rowOf n a = some c → deadlineOf s.slots[n] = some d → ComesDue n a d s → exec c s = .next (takeExpiry n s)

/-! # Output lines -/

/-- A pulse end that has come drives its line to the end level and is removed, and everything else is left alone (R66). That
a PULSE_END of a line whose pulse end has not come, or that has none, changes nothing is the model's choice (log 6). -/
def Obligations.PulseEndsDriveTheEndLevel : Prop :=
  ∀ (s : State) (n : LineNumber),
    (∀ e, pulseOf n s = some e → e.time ≤ s.time.now → ∃ t : State, exec (.pulseEnd n) s = .next t
        ∧ t = { s with lines := t.lines } ∧ (∀ m : LineNumber, m ≠ n → t.lines[m] = s.lines[m])
        ∧ t.lines[n] = { s.lines[n] with drive := some { level := e.level, pulseEnd := none } })
      ∧ (∀ e, pulseOf n s = some e → s.time.now < e.time → exec (.pulseEnd n) s = .next s)
      ∧ (pulseOf n s = none → exec (.pulseEnd n) s = .next s)

/-- A LINE that passes validation: LINE_TRIPPED, then TIME_RANGE for a pulse whose end cannot be placed, else the action
with the level and the pulse end it leaves; a refused LINE changes nothing (R67). -/
def Obligations.LineDrivesItsLine : Prop :=
  ∀ (r : Request) (s : State) (x : Action) (d : Drive), Arrives s → Valid .line r s → r.outputLine.toNat = x.line.val →
    s.lines[x.line].drive = some d →
    (r.actionKind = 1 → x.kind = .set) → (r.actionKind = 2 → x.kind = .clear) → (r.actionKind = 3 → x.kind = .toggle) →
    (r.actionKind = 4 → x.kind = .pulseHigh r.pulseWidth) → (r.actionKind = 5 → x.kind = .pulseLow r.pulseWidth) →
    let tripped := s.lines[x.line].participates = true ∧ s.trip.state = .tripped
    let pulse := r.actionKind = 4 ∨ r.actionKind = 5
    let level : Drive → BitVec 64 := fun d => if d.level then 1 else 0
    let last := s.time.now.toNat + r.pulseWidth.toNat
    (tripped → exec (.line r) s = .next (responding .ordinary r (unnamed .lineTripped (level d) 0 false) (taken s)))
      ∧ (¬ tripped → pulse → 2 ^ 64 ≤ last →
          exec (.line r) s = .next (responding .ordinary r (unnamed .timeRange s.time.now 0 false) (taken s)))
      ∧ (¬ tripped → (pulse → last < 2 ^ 64) → ∃ (t : State) (after : Drive), exec (.line r) s = .next t
          ∧ t = { responding .ordinary r
                    (unnamed .ok (level after) (if pulse then BitVec.ofNat 64 last else 0) false) (taken s) with
                  lines := ((taken s).performAction (some x)).lines }
          ∧ t.lines[x.line].drive = some after)

/-! # Input lines and edges -/

/-- An arming takes an edge to `level` on line `n`: WAITING on that line with a matching edge select (R82). -/
def Sys2Proof.Claims.TakesEdge (n : InputNumber) (level : Bool) (a : Arming) (e : EdgePart) : Prop :=
  (∃ d, a.phase = .waiting d) ∧ a.part = .waitEdge e ∧ e.input = n
    ∧ (e.select = .any ∨ e.select = if level then .rise else .fall)

/-- What one slot makes of an edge to `level` on line `n` at device time `now`: it takes it when it is WAITING on that line
with a matching edge select, is captured or starts its after-edge delay, and else passes it by (R82 to R85, R89). -/
def Sys2Proof.Claims.EdgeOffered (n : InputNumber) (level : Bool) (now : Time) (before after : Slot) : Prop :=
  after.generation = before.generation
    ∧ ((∀ a e, before.arming = some a → ¬ TakesEdge n level a e) → after = before)
    ∧ ∀ a e, before.arming = some a → TakesEdge n level a e →
        let f := { e with lastCapture := some now }
        (e.delay = none → after.arming = waitsAgain a f now ∧ after.report.fields.event = some .capture
            ∧ after.report.fields.time = now ∧ after.report.fields.tag = a.tag
            ∧ after.report.fields.count.toNat = min 65535 (before.report.fields.count.toNat + 1)
            ∧ (after.arming = none → after.report.fields.flags.final = true))
        ∧ (∀ k, e.delay = some k → now.toNat + k.toNat < 2 ^ 64 →
            after = { before with arming := some { a with
              part := .waitEdge f, phase := .armed (BitVec.ofNat 64 (now.toNat + k.toNat)) } })
        ∧ (∀ k, e.delay = some k → 2 ^ 64 ≤ now.toNat + k.toNat →
            after.arming = none ∧ after.report.fields.event = some .capture ∧ after.report.fields.flags.final = true)

/-- An EDGE that takes an edge whole accepts a candidate at its full count: the qualified level changes, the candidate is
removed, the trip-level status follows the level, every slot is offered the edge, and time, the fetch unit and the held
response are kept, in either order of the two parties; the input cause follows the status (R77, R78, R82, R104). Without
such a candidate nothing changes (log 6). -/
def Sys2Proof.Claims.EdgeReachesItsParties : Prop :=
  ∀ (s : State) (n : InputNumber) (share : EdgeShare), IntervalsSound s → s.inputs[n].edge = none →
    share = .slotsFirst ∨ share = .statusFirst →
    ((∀ c, s.inputs[n].candidate = some c → c.count < s.inputs[n].filter.toNat) → exec (.edge n share) s = .next s)
      ∧ ∀ c, s.inputs[n].candidate = some c → s.inputs[n].filter.toNat ≤ c.count →
          let active := (s.inputs[n].tripLevel == .high && c.level) || (s.inputs[n].tripLevel == .low && !c.level)
          ∃ t : State, exec (.edge n share) s = .next t
            ∧ t.inputs[n] = { s.inputs[n] with qualified := some c.level, candidate := none, active := active }
            ∧ (∀ m : InputNumber, m ≠ n → t.inputs[m] = s.inputs[m])
            ∧ (∀ m : SlotNumber, EdgeOffered n c.level s.time.now s.slots[m] t.slots[m])
            ∧ (active ≠ s.inputs[n].active → t.trip.inputCauses.getLsbD n.val = active)
            ∧ (active = true → s.inputs[n].active = false → t.trip.state = .tripped)
            ∧ (active = false ∨ s.inputs[n].active = true → t.trip.state = s.trip.state)
            ∧ t.time = s.time ∧ t.groups = s.groups ∧ t.fetch = s.fetch ∧ t.held = s.held
            ∧ t.configurationPresent = s.configurationPresent ∧ t.pending = s.pending ∧ t.freeCount = s.freeCount
            ∧ t.control = { s.control with intCause := t.control.intCause }

/-- An edge that one slot alone takes, without an after-edge delay and without a change of trip-level status, is a capture:
its action, its limit and timeout, and a CAPTURE event, and nothing else changes but the input line (R84, R89). -/
def Sys2Proof.Claims.CapturePerformsItsAction : Prop :=
  ∀ (s : State) (n : InputNumber) (share : EdgeShare) (c : Candidate) (m : SlotNumber) (a : Arming) (e : EdgePart),
    IntervalsSound s → s.inputs[n].edge = none → share = .slotsFirst ∨ share = .statusFirst →
    s.inputs[n].candidate = some c → s.inputs[n].filter.toNat ≤ c.count →
    s.inputs[n].active = ((s.inputs[n].tripLevel == .high && c.level) || (s.inputs[n].tripLevel == .low && !c.level)) →
    s.slots[m].arming = some a → TakesEdge n c.level a e → e.delay = none →
    (∀ (m' : SlotNumber) a' e', m' ≠ m → s.slots[m'].arming = some a' → ¬ TakesEdge n c.level a' e') →
    let l : InputLine := { s.inputs[n] with qualified := some c.level, candidate := none }
    let u : State := { s with inputs := s.inputs.set n l }
    let after := waitsAgain a { e with lastCapture := some s.time.now } s.time.now
    exec (.edge n share) s = .next (((u.performAction a.action).putArming m after).recordEvent (.slot m)
      (occurs .capture a { actionFlags a s with final := decide (after = none) } s)
      (a.policy == .every || (a.policy == .final && decide (after = none))))

/-- An edge taken in shares, several slots and the trip-level status included. The offers below a bound that are still to be
made are taken in ascending slot number, each slot as its offer finds it, and the slots whose reports become pending join
the queue in that order; the trip-level status is re-evaluated once and a change handed to the trip unit; an EDGE that takes
the whole edge is the two shares one after the other. Between two shares any other command may be taken (R77, R78, R82 to
R85, R89, R104). Every slot that takes the edge records the same edge time, which stands in the line with how
far the edge has come. That an edge may be taken by several EDGE commands is the model's choice (log 7). -/
def Sys2Proof.Claims.EdgeIsTakenInShares : Prop :=
  ∀ (s : State) (n : InputNumber) (b : InputLine) (e : EdgeUnderWay), Begun s.time.now s.inputs[n] b e →
    let line := fun (e : EdgeUnderWay) => { s with inputs := s.inputs.set n { b with edge := unfinished e } }
    (∀ bound : Fin 257,
        let slots : List SlotNumber := (List.finRange 256).filter fun m => decide (e.next.val ≤ m.val ∧ m.val < bound.val)
        let t : State := slots.foldl (fun t m => offered n e m t) (line { e with next := max e.next bound })
        exec (.edge n (.offersBelow bound)) s = .next t
          ∧ t.writer.queue = s.writer.queue ++ (slots.filter fun m : SlotNumber =>
              decide (s.slots[m].report.state = .none ∧ t.slots[m].report.state = .pending)).map Source.slot)
      ∧ (e.statusDue = false → exec (.edge n .status) s = .next s)
      ∧ (e.statusDue = true →
          let active := (b.tripLevel == .high && b.qualified == some true) || (b.tripLevel == .low && b.qualified == some false)
          let l : InputLine := { b with active := active, edge := unfinished { e with statusDue := false } }
          let u : State := { s with inputs := s.inputs.set n l }
          exec (.edge n .status) s = .next (
            if active = b.active then u else if active then u.raise (.input n)
            else { u with trip := { u.trip with inputCauses := u.trip.inputCauses &&& ~~~ (1#8 <<< n.val) } }))
      ∧ ((s.inputs[n].edge ≠ none → ∀ c, s.inputs[n].candidate = some c → c.count < s.inputs[n].filter.toNat) →
          (∃ v t : State, exec (.edge n (.offersBelow (Fin.last 256))) s = .next v ∧ exec (.edge n .status) v = .next t
              ∧ exec (.edge n .slotsFirst) s = .next t)
          ∧ ∃ v t : State, exec (.edge n .status) s = .next v ∧ exec (.edge n (.offersBelow (Fin.last 256))) v = .next t
              ∧ exec (.edge n .statusFirst) s = .next t)

/-- An edge reaches every slot and the trip-level status, whole or in shares, and a capture acts (R77, R78, R82 to R85, R89).
The shares are the model's choice (log 7), and so is that an EDGE which finds neither an edge under way nor a candidate at
its full count changes nothing (log 6). That a slot offered the edge after a time step records the edge time that the slots
before it recorded, and takes at once a deadline that the step has passed, is log 38. -/
def Obligations.EdgeIsOfferedToEverySlot : Prop :=
  EdgeReachesItsParties ∧ CapturePerformsItsAction ∧ EdgeIsTakenInShares

/-- CONFIG_INPUT on a sampled line whose status no acceptance still has to re-evaluate sets filter length and trip level,
discards the candidate, re-evaluates the trip-level status from the kept qualified level, hands a change to the trip unit
at once, and answers level and status (R78, R79, R104). A candidate whose acceptance is due shows that the CONFIG_INPUT is
taken before the sample: the sample then makes a new candidate with stable count 0 (R80); that it is so is the model's
choice (log 8). A line not yet sampled, which no run with requests holds, is left out (log 16). -/
def Sys2Proof.Claims.ConfigInputTakesTheLine : Prop :=
  ∀ (r : Request) (s : State) (n : InputNumber) (level : Bool) (q : Bool), Arrives s → Valid .configInput r s →
    r.inputLine.toNat = n.val → s.inputs[n].qualified = some q →
    (∀ e, s.inputs[n].edge = some e → e.statusDue = false) →
    level = (decide (r.tripLevel = 1) && q || decide (r.tripLevel = 2) && !q) →
    let sampledAfter : Option Candidate := match s.inputs[n].candidate with
      | none => none
      | some c => if s.inputs[n].filter.toNat ≤ c.count then some { level := c.level, count := 0 } else none
    let l : InputLine := { s.inputs[n] with
      filter := r.filterLength, candidate := sampledAfter, active := level
      tripLevel := if r.tripLevel = 0 then .none else if r.tripLevel = 1 then .high else .low }
    let u : State := { taken s with inputs := s.inputs.set n l }
    let dropped : State := { u with trip := { u.trip with inputCauses := u.trip.inputCauses &&& ~~~ (1#8 <<< n.val) } }
    let t := if level = s.inputs[n].active then u else if level then u.raise (.input n) else dropped
    exec (.configInput r) s = .next (responding .ordinary r
      (unnamed .ok (if q then 1 else 0) (if level then 1 else 0) false) t)

/-- A CONFIG_INPUT that finds an acceptance whose trip-level status is still to be re-evaluated is taken after it: the status
changes under the old trip level, as by the EDGE of that share, and the CONFIG_INPUT then acts on what it left (R80, sample
first; log 8). -/
def Sys2Proof.Claims.ConfigInputFollowsTheStatus : Prop :=
  ∀ (r : Request) (s : State) (n : InputNumber) (e : EdgeUnderWay), Arrives s → Valid .configInput r s →
    r.inputLine.toNat = n.val → s.inputs[n].edge = some e → e.statusDue = true →
    ∃ v : State, exec (.edge n .status) s = .next v ∧ exec (.configInput r) s = exec (.configInput r) v
      ∧ Arrives v ∧ Valid .configInput r v ∧ ∀ e', v.inputs[n].edge = some e' → e'.statusDue = false

/-- CONFIG_INPUT in both orders with the sample of its line (R78, R79, R80, R104; log 8). -/
def Obligations.ConfigInputReevaluatesTheTripLevel : Prop :=
  ConfigInputTakesTheLine ∧ ConfigInputFollowsTheStatus

/-! # Trip -/

/-- FORCE_TRIP raises the forced cause and answers the cause set after it with the trip record; WAS_CLEAR tells the state
before it. With a flag set it is refused with BAD_FIELD (R107, R167). -/
def Sys2Proof.Claims.ForceTripRaisesTheForcedCause : Prop :=
  ∀ (r : Request) (s : State), Arrives s → Clean r →
    let t := (taken s).raise .forced
    let a := tripNumber t.trip t.trip.record
    (r.flags = 0 → exec (.forceTrip r) s =
        .next (responding .ordinary r (unnamed .ok a t.trip.record.time (s.trip.state == .clear)) t))
      ∧ (r.flags ≠ 0 → exec (.forceTrip r) s = .next (responding .ordinary r (unnamed .badField 0 0 false) (taken s)))

/-- CLEAR_TRIP in CLEAR changes nothing, is refused with TRIP_ACTIVE while an input cause is active, and else clears the
latched causes and the trip state, keeping the record, the lines and the interrupt causes; it answers the cause set
before it. With a flag set it is refused with BAD_FIELD (R111, R112, R167). -/
def Sys2Proof.Claims.ClearTripNeedsQuietInputs : Prop :=
  ∀ (r : Request) (s : State), Arrives s → Clean r →
    let a := tripNumber s.trip s.trip.record
    let respond := fun status wasClear t => responding .ordinary r (unnamed status a s.trip.record.time wasClear) t
    (r.flags = 0 → s.trip.state = .clear → exec (.clearTrip r) s = .next (respond .ok true (taken s)))
      ∧ (r.flags = 0 → s.trip.state = .tripped → s.trip.inputCauses ≠ 0 →
          exec (.clearTrip r) s = .next (respond .tripActive false (taken s)))
      ∧ (r.flags = 0 → s.trip.state = .tripped → s.trip.inputCauses = 0 →
          exec (.clearTrip r) s = .next (respond .ok false { taken s with trip :=
            { state := .clear, inputCauses := 0, guardCause := false, faultCause := false, forcedCause := false,
              record := s.trip.record } }))
      ∧ (r.flags ≠ 0 → exec (.clearTrip r) s = .next (responding .ordinary r (unnamed .badField 0 0 false) (taken s)))

/-- FORCE_TRIP and CLEAR_TRIP in either trip state (R107, R111, R112). -/
def Obligations.TripRequestsFollowTheirTable : Prop :=
  ForceTripRaisesTheForcedCause ∧ ClearTripNeedsQuietInputs

/-- TRIPPED is left by CLEAR_TRIP, the arrival of its record and power-on reset alone: every other command, a RESET
included, keeps the device tripped (R103, R112, R114, R115). -/
def Obligations.OnlyClearTripLeavesTripped : Prop :=
  ∀ (c : Instr) (s : State), s.trip.state = .tripped → c ≠ .powerOnReset → (∀ r, c ≠ .clearTrip r) →
    (∀ access data, c = .fetchDataArrives access data → data[0] ≠ 15) →
    ∃ t : State, exec c s = .next t ∧ t.trip.state = .tripped

/-! # The control block -/

/-- START in HALTED or FAULTED latches the address that CONFIG_HI and CONFIG_LO hold and enters LOADING, remembering where
from; in any other state it is ignored with CMD_IGNORED set (R118, R119). -/
def Sys2Proof.Claims.StartBeginsALoad : Prop :=
  ∀ s : State,
    (∀ origin, (s.control.state = .halted ∧ origin = LoadOrigin.halted ∨ s.control.state = .faulted ∧ origin = .faulted) →
        exec .start s = .next { s with control := { s.control with
          state := .loading, origin := some origin, heldBlock := none
          configRead := some (s.control.configHi ++ s.control.configLo) } })
      ∧ (s.control.state ≠ .halted → s.control.state ≠ .faulted → exec .start s = .next (ignoring s))

/-- PAUSE in RUNNING enters PAUSED when no fetch is in flight and no response held, else PAUSING; RESUME in PAUSING or
PAUSED enters RUNNING and disturbs neither; in any other state each is ignored with CMD_IGNORED set (R118, R124,
R126). -/
def Sys2Proof.Claims.PauseAndResumeMoveTheState : Prop :=
  ∀ s : State,
    let entering := fun (x : ControllerState) => { s with control := { s.control with state := x } }
    (s.control.state = .running → s.fetch.inFlight = none ∧ s.held = none → exec .pause s = .next (entering .paused))
      ∧ (s.control.state = .running → ¬ (s.fetch.inFlight = none ∧ s.held = none) → exec .pause s = .next (entering .pausing))
      ∧ (s.control.state ≠ .running → exec .pause s = .next (ignoring s))
      ∧ (s.control.state = .pausing ∨ s.control.state = .paused → exec .resume s = .next (entering .running))
      ∧ (s.control.state ≠ .pausing → s.control.state ≠ .paused → exec .resume s = .next (ignoring s))

/-- A write of an unassigned code to CONTROL: 0 changes nothing and sets no flag, 5 and above set CMD_IGNORED and change
nothing else (R118). -/
def Sys2Proof.Claims.UnassignedCodesAreIgnored : Prop :=
  ∀ (v : BitVec 32) (s : State), (Instr.controlWriteUnassignedCode v).wellFormed = true →
    (v = 0 → exec (.controlWriteUnassignedCode v) s = .next s)
      ∧ (v ≠ 0 → exec (.controlWriteUnassignedCode v) s = .next (ignoring s))

/-- START, PAUSE, RESUME and the unassigned codes in every controller state (R118, R119, R124, R126). -/
def Obligations.ControlCommandsMoveTheState : Prop :=
  StartBeginsALoad ∧ PauseAndResumeMoveTheState ∧ UnassignedCodesAreIgnored

/-- A read of STATUS returns controller state, fault cause, trip state and the three flags at their bit positions, 0 in
every other bit, and then clears the three flags and changes nothing else of the device. Where the value stands is the
model's choice (R130, R168; log 12). -/
def Sys2Proof.Claims.StatusReadReturnsAndClears : Prop :=
  ∀ s : State, ∃ v : BitVec 32,
    exec .statusRead s = .next { s with control :=
      { s.control with readData := v, cmdIgnored := false, tailRange := false, headRange := false } }
      ∧ s.readRegister .status = v
      ∧ v.toNat = stateNumber s.control.state + 16 * faultNumber s.control.faultCause
          + (if s.trip.state = .tripped then 256 else 0) + (if s.control.cmdIgnored then 65536 else 0)
          + (if s.control.tailRange then 131072 else 0) + (if s.control.headRange then 262144 else 0)

/-- CONFIG_LO keeps bits 6 to 31 of a value written to it, CONFIG_HI all 32, and both read back in every controller
state; a write to STATUS has no effect (R130, R131). -/
def Sys2Proof.Claims.ConfigAddressRegistersKeepTheirBits : Prop :=
  ∀ (v : BitVec 32) (s : State),
    (∃ lo : BitVec 32, lo.toNat = v.toNat - v.toNat % 64
        ∧ exec (.registerWrite .configLo v) s = .next { s with control := { s.control with configLo := lo } })
      ∧ exec (.registerWrite .configHi v) s = .next { s with control := { s.control with configHi := v } }
      ∧ exec (.registerWrite .status v) s = .next s
      ∧ s.readRegister .configLo = s.control.configLo ∧ s.readRegister .configHi = s.control.configHi

/-- INT_N is asserted exactly while some cause is set and enabled; a write to INT_CAUSE clears the causes written with 1,
INT_ENABLE keeps its three bits, and both read 0 beyond them (R163). -/
def Sys2Proof.Claims.InterruptRegistersFollowTheirBits : Prop :=
  ∀ (v : BitVec 32) (s : State),
    (s.intAsserted = true ↔ ∃ b, b < 3 ∧ s.control.intCause.getLsbD b = true ∧ s.control.intEnable.getLsbD b = true)
      ∧ (∃ cause : BitVec 3, exec (.intCauseWrite v) s = .next { s with control := { s.control with intCause := cause } }
          ∧ ∀ b, b < 3 → cause.getLsbD b = (s.control.intCause.getLsbD b && !v.getLsbD b))
      ∧ (∃ enable : BitVec 3, exec (.registerWrite .intEnable v) s =
            .next { s with control := { s.control with intEnable := enable } }
          ∧ ∀ b, b < 3 → enable.getLsbD b = v.getLsbD b)
      ∧ (s.readRegister .intCause).toNat = s.control.intCause.toNat
      ∧ (s.readRegister .intEnable).toNat = s.control.intEnable.toNat

/-- STATUS, CONFIG_LO, CONFIG_HI, INT_CAUSE and INT_ENABLE (R130, R131, R163, R168; log 12). -/
def Obligations.RegisterWindowFollowsItsBits : Prop :=
  StatusReadReturnsAndClears ∧ ConfigAddressRegistersKeepTheirBits ∧ InterruptRegistersFollowTheirBits

/-- An entry into FAULTED from a state with no fetch in flight: fault cause, FAULT interrupt cause and, under TRIP_ON_FAULT,
the controller-fault raise with the cause's code (R106, R128; the origin of LOADING is dropped, log 22). -/
def Sys2Proof.Claims.faulting (cause : FaultCause) (s : State) : State :=
  let u : State := { s with control := { s.control with
    state := .faulted, origin := none, faultCause := cause, intCause := s.control.intCause ||| 2 } }
  if s.control.tripOnFault then u.raise (.controllerFault cause) else u

/-- A configuration read that ends with a bus error, or whose block fails one of the seven checks, takes the controller to
FAULTED with CONFIG_READ or CONFIG_BAD, and no value of the block reaches another block; a valid block is held. An
abandoned read ends without effect (R119, R120, R121, R129). The count of abandoned reads (log 10) and the remembered
origin, cleared on leaving LOADING (log 22), are the model's choices. -/
def Obligations.ConfigReadEndsTheLoadOrHoldsTheBlock : Prop :=
  ∀ (s : State) (b : ConfigBlock),
    let good := b.format.toNat = 1 ∧ 4 ≤ b.submissionLog2.toNat ∧ b.submissionLog2.toNat ≤ 12
      ∧ 4 ≤ b.completionLog2.toNat ∧ b.completionLog2.toNat ≤ 12 ∧ 1 ≤ b.divider.toNat ∧ b.divider.toNat ≤ 65536
      ∧ b.submissionBase.toNat % 64 = 0 ∧ b.completionBase.toNat % 32 = 0 ∧ b.threshold ≠ 0
      ∧ ∀ i : Fin 28, b.reserved[i] = 0
    let ended : State := { s with control := { s.control with configRead := none } }
    (s.control.configRead ≠ none → s.fetch.inFlight = none →
        exec (.configReadError .own) s = .next (faulting .configRead ended)
          ∧ (¬ good → exec (.configBlockArrives .own (encodeBlock b)) s = .next (faulting .configBad ended))
          ∧ (good → exec (.configBlockArrives .own (encodeBlock b)) s =
              .next { s with control := { s.control with configRead := none, heldBlock := some b } }))
      ∧ ∀ c, c = Instr.configReadError .abandoned ∨ c = .configBlockArrives .abandoned (encodeBlock b) →
          exec c s = .next { s with control := { s.control with abandonedReads := s.control.abandonedReads - 1 } }

/-- A held block is applied whole once no completion write is in flight: rings and indices, moderation, divider for the
ticks to come, option, fault cause, RUNNING, and counting begun if device time was STOPPED; slots, deadline list,
groups, queue, held response, trip unit and inputs are kept (R2, R4, R122, R123, R134, R162). The lines are the other
part's. -/
def Sys2Proof.Claims.ConfigApplyLoadsEveryBlock : Prop :=
  ∀ (s : State) (b : ConfigBlock), s.control.heldBlock = some b →
    (s.writer.inFlight ≠ none → exec .configApply s = .next s)
      ∧ (s.writer.inFlight = none → ∃ t : State, exec .configApply s = .next t
          ∧ t = { s with
              lines := t.lines, configurationPresent := true
              fetch := { s.fetch with
                base := b.submissionBase, entries := 2 ^ b.submissionLog2.toNat, head := 0, tail := 0 }
              writer := { s.writer with
                base := b.completionBase, entries := 2 ^ b.completionLog2.toNat, writeIndex := 0, completeHead := 0
                nextSequence := 1, fairness := 0, threshold := b.threshold, delay := b.moderation, moderationCount := 0
                delayTimer := none }
              time := { s.time with
                divider := b.divider.toNat
                counting := if s.time.counting = .stopped then .counting else s.time.counting }
              control := { s.control with
                state := .running, origin := none, faultCause := .none, heldBlock := none
                tripOnFault := b.options.getLsbD 0 } })

/-- The masks of a block reach all sixteen lines: a line not enabled is undriven; one held by a trip takes its safe level
without a pulse end; a line that stays enabled through a reload keeps level and pulse end; any other takes its default
level (R72, R73, R74). -/
def Sys2Proof.Claims.ConfigApplyDrivesTheLines : Prop :=
  ∀ (s : State) (b : ConfigBlock), s.control.heldBlock = some b → s.writer.inFlight = none →
    ∃ t : State, exec .configApply s = .next t ∧ ∀ n : LineNumber,
      let safe := b.safeMask.getLsbD n.val
      let participates := b.participateMask.getLsbD n.val
      let tripped := participates = true ∧ s.trip.state = .tripped
      t.lines[n].defaultLevel = b.defaultMask.getLsbD n.val ∧ t.lines[n].safeLevel = safe
        ∧ t.lines[n].participates = participates
        ∧ (b.enableMask.getLsbD n.val = false → t.lines[n].drive = none)
        ∧ (b.enableMask.getLsbD n.val = true → tripped → t.lines[n].drive = some { level := safe, pulseEnd := none })
        ∧ (b.enableMask.getLsbD n.val = true → ¬ tripped → s.configurationPresent = true → ∀ d, s.lines[n].drive = some d →
            t.lines[n].drive = some d)
        ∧ (b.enableMask.getLsbD n.val = true → ¬ tripped → (s.configurationPresent = false ∨ s.lines[n].drive = none) →
            t.lines[n].drive = some { level := b.defaultMask.getLsbD n.val, pulseEnd := none })

/-- The application of a valid block, at every block it reaches (R72, R73, R74, R122, R123). That the application is a
command of its own (log 11) and that the remembered origin is cleared with it (log 22) are the model's choices. -/
def Obligations.ConfigApplyTakesTheBlockWhole : Prop :=
  ConfigApplyLoadsEveryBlock ∧ ConfigApplyDrivesTheLines

/-! # The submission ring and the request engine -/

/-- A write to SUBMIT_TAIL below E becomes the tail in every controller state; any other value keeps the tail and sets
TAIL_RANGE, which a read of STATUS and both resets clear; a read of SUBMIT_TAIL returns the tail (R133). -/
def Obligations.SubmitTailIsRangeChecked : Prop :=
  ∀ (v : BitVec 32) (s : State),
    (v.toNat < s.fetch.entries →
        exec (.submitTailWrite v) s = .next { s with fetch := { s.fetch with tail := v.toNat } })
      ∧ (s.fetch.entries ≤ v.toNat →
          exec (.submitTailWrite v) s = .next { s with control := { s.control with tailRange := true } })
      ∧ (s.readRegister .submitTail).toNat = s.fetch.tail % 2 ^ 32
      ∧ ∀ c ∈ [Instr.statusRead, .reset, .powerOnReset], ∃ t : State, exec c s = .next t ∧ t.control.tailRange = false

/-- A read of the record at the head is issued when the controller is RUNNING, the ring is not empty, no response is held
and no fetch is in flight, and not otherwise; the head does not move (R135). That it is commanded is the model's choice
(log 11). -/
def Sys2Proof.Claims.FetchIsIssuedUnderItsFourConditions : Prop :=
  ∀ s : State,
    let may := s.control.state = .running ∧ s.fetch.head ≠ s.fetch.tail ∧ s.held = none ∧ s.fetch.inFlight = none
    (may → exec .fetchIssue s = .next { s with fetch := { s.fetch with inFlight := some s.fetch.head } })
      ∧ (¬ may → exec .fetchIssue s = .next s)

/-- The arrival of the 64 bytes of a record is the row of its kind, which ends the fetch, advances the head and leaves a
response held; a withdrawn record is dropped by every request row, which may let PAUSING become PAUSED; the data of a
discarded fetch is dropped (R125, R136, R137, R145, R165). That the arrival and the request are one row's effect is the
model's choice (log 9), and so are the count of discarded fetches (log 10) and the pause after a withdrawn record
(log 29). -/
def Sys2Proof.Claims.ArrivingDataIsTheRowOfItsKind : Prop :=
  ∀ (c : Instr) (k : RequestKind) (r : Request) (s : State), requestOf c = some (k, r) →
    let data := encodeRecord { kind := BitVec.ofNat 8 (kindNumber k), body := r }
    exec (.fetchDataArrives .own data) s = exec c s
      ∧ exec (.fetchDataArrives .abandoned data) s =
          .next { s with fetch := { s.fetch with abandoned := s.fetch.abandoned - 1 } }
      ∧ (Arrives s → ∃ t : State, exec (.fetchDataArrives .own data) s = .next t ∧ t.held ≠ none
          ∧ t.fetch = { s.fetch with inFlight := none, head := (s.fetch.head + 1) % s.fetch.entries })
      ∧ (s.fetch.inFlight ≠ none → s.fetch.tail = s.fetch.head →
          let ended : State := { s with fetch := { s.fetch with inFlight := none } }
          (s.control.state = .pausing → s.held = none →
              exec c s = .next { ended with control := { s.control with state := .paused } })
            ∧ (s.control.state ≠ .pausing ∨ s.held ≠ none → exec c s = .next ended))

/-- A fetch read that ends with a bus error takes the controller to FAULTED with FETCH_READ; no record is taken and the
head stays. The error of a discarded fetch is dropped (R127, R137). That the error of a withdrawn fetch faults as well is
the model's choice (log 29), and so is the count of discarded fetches (log 10). -/
def Sys2Proof.Claims.FetchReadErrorFaults : Prop :=
  ∀ s : State,
    (s.fetch.inFlight ≠ none → exec (.fetchReadError .own) s =
        .next (faulting .fetchRead { s with fetch := { s.fetch with inFlight := none } }))
      ∧ exec (.fetchReadError .abandoned) s =
          .next { s with fetch := { s.fetch with abandoned := s.fetch.abandoned - 1 } }

/-- A fetch from its issue to the arrival of its data or its bus error (R127, R135, R136, R137). The model's choices in it are
the commanded issue (log 11), the request row as the arrival of its record (log 9), the count of discarded fetches
(log 10) and the end of a withdrawn fetch (log 29). -/
def Obligations.FetchesAreIssuedAndEnd : Prop :=
  FetchIsIssuedUnderItsFourConditions ∧ ArrivingDataIsTheRowOfItsKind ∧ FetchReadErrorFaults

/-- Validation of every request row in its order of steps 2 to 5, and step 1 at the arrival of a record of no kind: a
refusal answers the status of the failing step, names no slot and changes no state, and a record that passes is handed
to its owning block (R138, R139, R140, R141, R142). -/
def Obligations.ValidationRefusesInOrder : Prop :=
  ∀ (c : Instr) (k : RequestKind) (r : Request) (s : State), requestOf c = some (k, r) → Arrives s →
    let refused := fun status => responding .ordinary r (unnamed status 0 0 false) (taken s)
    (FailsFlags k r → exec c s = .next (refused .badField))
      ∧ (¬ FailsFlags k r → FailsSlot k r → exec c s = .next (refused .badSlot))
      ∧ (¬ FailsFlags k r → ¬ FailsSlot k r → FailsField k r → exec c s = .next (refused .badField))
      ∧ (¬ FailsFlags k r → ¬ FailsSlot k r → ¬ FailsField k r → FailsLine k r s → exec c s = .next (refused .badLine))
      ∧ (Valid k r s → let u := owner k r (taken s)
          exec c s = .next (responding (responseKind k u.2) r u.2 u.1))
      ∧ ∀ code : Byte, 16 < code.toNat →
          exec (.fetchDataArrives .own (encodeRecord { kind := code, body := r })) s = .next (refused .badKind)

/-- A NOP that has passed validation is answered OK with 0 in both values, names no slot and changes no state of any block;
no other field of its record is read (R143). -/
def Obligations.NopAnswersOk : Prop :=
  ∀ (r : Request) (s : State), Arrives s → Clean r →
    (r.flags = 0 → exec (.nop r) s = .next (responding .ordinary r (unnamed .ok 0 0 false) (taken s)))
      ∧ (r.flags ≠ 0 → exec (.nop r) s = .next (responding .ordinary r (unnamed .badField 0 0 false) (taken s)))

/-! # The completion ring, reports and interrupts -/

/-- FENCE sets the fence mark to the number of entries in the report queue and answers that number; with a flag set it is
refused with BAD_FIELD (R160). -/
def Obligations.FenceMarksTheQueue : Prop :=
  ∀ (r : Request) (s : State), Arrives s → Clean r →
    let n := s.writer.queue.length
    (r.flags = 0 → exec (.fence r) s = .next (responding .fence r (unnamed .ok (BitVec.ofNat 64 n) 0 false)
        { taken s with writer := { s.writer with fenceMark := some n } }))
      ∧ (r.flags ≠ 0 → exec (.fence r) s = .next (responding .ordinary r (unnamed .badField 0 0 false) (taken s)))

/-- A write to COMPLETE_HEAD that releases written records and no others becomes the head; any other keeps it and sets
HEAD_RANGE, which a read of STATUS clears; the value held is accepted and changes nothing, and a read returns it (R148).
Ring indices and size are in range. -/
def Obligations.CompleteHeadReleasesWrittenRecords : Prop :=
  ∀ (v : BitVec 32) (s : State), RangesSound s →
    let w := s.writer
    let releases := v.toNat < w.entries ∧
      (v.toNat + w.entries - w.completeHead) % w.entries ≤ (w.writeIndex + w.entries - w.completeHead) % w.entries
    (releases → exec (.completeHeadWrite v) s = .next { s with writer := { s.writer with completeHead := v.toNat } })
      ∧ (¬ releases → exec (.completeHeadWrite v) s = .next { s with control := { s.control with headRange := true } })
      ∧ (releases ↔ ∃ k, k ≤ (w.writeIndex + w.entries - w.completeHead) % w.entries
          ∧ v.toNat = (w.completeHead + k) % w.entries)
      ∧ (v.toNat = w.completeHead → exec (.completeHeadWrite v) s = .next s)
      ∧ (s.readRegister .completeHead).toNat = w.completeHead
      ∧ ∃ t : State, exec .statusRead s = .next t ∧ t.control.headRange = false

/-- The write of a record, as it stands in flight from its issue to its end (R149, R153, R165). That the address of its entry
wraps modulo 2^64 is the model's choice (log 37). -/
def Sys2Proof.Claims.written (source : WriteSource) (c : CompletionRecord) (s : State) : CompletionWrite :=
  { source := source, index := s.writer.writeIndex, sequence := s.writer.nextSequence
    address := s.writer.base + BitVec.ofNat 64 (32 * s.writer.writeIndex), contents := encodeCompletion c
    reportsWaited := decide (s.writer.queue ≠ []), eventNoted := false, cancelNoted := false }

/-- A write is issued only in RUNNING, PAUSING or PAUSED, with none in flight, the ring not full and an eligible record
waiting. The held response goes first unless it is a FENCE response whose mark is above 0, or the fairness count stands
at 4 and the head of the queue is not the slot that the answered ARM armed; else the head of the report queue is written
with its fields, which are then emptied but for event time and tag (R144, R153, R154, R156, R161, R166). That the issue
is commanded is the model's choice (log 11). -/
def Obligations.CompletionWriteIsArbitrated : Prop :=
  ∀ s : State,
    let may := (s.control.state = .running ∨ s.control.state = .pausing ∨ s.control.state = .paused)
      ∧ s.writer.inFlight = none ∧ (s.writer.writeIndex + 1) % s.writer.entries ≠ s.writer.completeHead
    let eligible : HeldResponse → Prop := fun h => s.held = some h ∧ (h.kind = .fence → s.writer.fenceMark = some 0)
    let yields : HeldResponse → Source → Prop := fun h src => s.writer.fairness = 4 ∧ ∀ n, h.kind = .acceptedArm n → src ≠ .slot n
    (¬ may → exec .completionWriteIssue s = .next s)
      ∧ ((∀ h, ¬ eligible h) → s.writer.queue = [] → exec .completionWriteIssue s = .next s)
      ∧ (may → ∀ h, eligible h → (∀ src, s.writer.queue.head? = some src → ¬ yields h src) →
          exec .completionWriteIssue s = .next { s with writer := { s.writer with inFlight := some (written .response
            { type := 1, code := BitVec.ofNat 8 (statusNumber h.answer.status)
              flags := (if h.answer.reportWasPending then 1 else 0) + (if h.answer.wasClear then 2 else 0)
              sequence := s.writer.nextSequence, first := h.answer.valueA, second := h.answer.valueB
              source := match h.answer.named with
                | none => 0xFFFF
                | some n => BitVec.ofNat 16 n.val
              generation := h.answer.generation, idOrCount := h.requestId, submissionHead := h.submissionHead } s) } })
      ∧ (may → ∀ src rest, s.writer.queue = src :: rest → (∀ h, eligible h → yields h src) →
          let f := (s.report src).fields
          ∃ t : State, exec .completionWriteIssue s = .next t
            ∧ t = { s with
                slots := t.slots
                writer := { s.writer with
                  controllerEntry := t.writer.controllerEntry
                  inFlight := some (written (.report src f)
                    { type := 2, flags := BitVec.ofNat 16 (flagsNumber f.flags), sequence := s.writer.nextSequence, first := f.tag, second := f.time
                      code := BitVec.ofNat 8 (eventNumber f.event)
                      source := match src with
                        | .slot n => BitVec.ofNat 16 n.val
                        | .controller => 256
                      generation := match src with
                        | .slot n => s.slots[n].generation
                        | .controller => 0
                      idOrCount := f.count, submissionHead := BitVec.ofNat 16 s.fetch.head } s) } }
            ∧ t.report src = { s.report src with fields := { event := none, time := f.time, tag := f.tag, count := 0, flags := {} } }
            ∧ (∀ src', src' ≠ src → t.report src' = s.report src')
            ∧ ∀ n : SlotNumber, t.slots[n].arming = s.slots[n].arming ∧ t.slots[n].generation = s.slots[n].generation)

/-- Interrupt moderation of an acknowledged record: the count goes up; at the threshold COMPLETION is set, the count becomes
0 and the timer stops; a first record below the threshold starts the timer when D is not 0 (R164). -/
def Sys2Proof.Claims.Counted (s t : State) : Prop :=
  let n := s.writer.moderationCount + 1
  (s.writer.threshold.toNat ≤ n →
      t = { s with
        writer := { s.writer with moderationCount := 0, delayTimer := none }
        control := { s.control with intCause := s.control.intCause ||| 1 } })
    ∧ (n < s.writer.threshold.toNat → t = { s with writer := { s.writer with
        moderationCount := n
        delayTimer := if n = 1 ∧ s.writer.delay ≠ 0 then some s.writer.delay.toNat else s.writer.delayTimer } })

/-- The acknowledgement of a report write in every controller state: index and sequence advance, the fairness count becomes
0, a fence mark above 0 falls by one, the source leaves the queue, joining its tail again as PENDING when the write has
noted an event or a CANCEL, and the record is counted (R149, R154, R157, R158, R164). A source that does not join again
keeps what was coalesced during the write (R157), and has empty fields when nothing was (R32): that event time and tag are
emptied with the others then, though R156 keeps them at the issue, is the model's reading (log 36). -/
def Obligations.ReportAcknowledgementFreesTheSource : Prop :=
  ∀ (s : State) (w : CompletionWrite) (src : Source) (formed : ReportFields),
    s.writer.inFlight = some w → w.source = .report src formed → s.writer.queue.head? = some src →
    let again := w.eventNoted = true ∨ w.cancelNoted = true
    ∃ u t : State, exec (.reportWriteAck .own) s = .next t ∧ Counted u t
      ∧ u = { s with
          slots := u.slots
          writer := { s.writer with
            inFlight := none, writeIndex := (s.writer.writeIndex + 1) % s.writer.entries
            nextSequence := s.writer.nextSequence + 1, fairness := 0, fenceMark := s.writer.fenceMark.map (· - 1)
            queue := s.writer.queue.tail ++ (if again then [src] else []), controllerEntry := u.writer.controllerEntry } }
      ∧ (again → u.report src = { s.report src with state := .pending })
      ∧ (¬ again → (s.report src).fields.event ≠ none → u.report src = { s.report src with state := .none })
      ∧ (¬ again → (s.report src).fields.event = none → u.report src =
          { state := .none, fields := { event := none, time := 0, tag := 0, count := 0, flags := {} } })
      ∧ (∀ src', src' ≠ src → u.report src' = s.report src')
      ∧ ∀ n : SlotNumber, u.slots[n].arming = s.slots[n].arming ∧ u.slots[n].generation = s.slots[n].generation

/-- The acknowledgement of a response write in every controller state: index and sequence advance, the fairness count goes
up to at most 4 when reports waited at the issue and else becomes 0, the response leaves the request engine, a FENCE
response leaves no mark, PAUSING with no fetch in flight becomes PAUSED, and the record is counted (R125, R145, R149,
R154, R158, R164). -/
def Obligations.ResponseAcknowledgementFreesTheEngine : Prop :=
  ∀ (s : State) (w : CompletionWrite) (h : HeldResponse),
    s.writer.inFlight = some w → w.source = .response → s.held = some h →
    ∃ t : State, exec (.responseWriteAck .own) s = .next t ∧ Counted
      { s with
        held := none
        control := { s.control with state :=
          if s.control.state = .pausing ∧ s.fetch.inFlight = none then .paused else s.control.state }
        writer := { s.writer with
          inFlight := none, writeIndex := (s.writer.writeIndex + 1) % s.writer.entries
          nextSequence := s.writer.nextSequence + 1
          fairness := if w.reportsWaited then min 4 (s.writer.fairness + 1) else 0
          fenceMark := if h.kind = .fence then none else s.writer.fenceMark } } t

/-- A completion write that ends with a bus error leaves its record at its source with indices, fairness count and fence
mark unchanged: a response stays held, a report is coalesced back under the fields gathered since. In RUNNING, PAUSING
and PAUSED the controller enters FAULTED and a fetch in flight is discarded; in FAULTED and LOADING nothing else
happens. An abandoned write ends without effect (R127, R128, R129, R137, R159). The counts of abandoned accesses are the
model's choice (log 10). -/
def Obligations.CompletionWriteErrorKeepsTheRecord : Prop :=
  ∀ (s : State) (w : CompletionWrite), s.writer.inFlight = some w →
    let writes := s.control.state = .running ∨ s.control.state = .pausing ∨ s.control.state = .paused
    (∃ u : State,
        (w.source = .response → u = { s with writer := { s.writer with inFlight := none } })
        ∧ (∀ src formed, w.source = .report src formed →
            let f := (s.report src).fields
            let g := (u.report src).fields
            u = { s with
              slots := u.slots
              writer := { s.writer with inFlight := none, controllerEntry := u.writer.controllerEntry } }
            ∧ (u.report src).state = (s.report src).state
            ∧ (f.event = none → g.event = formed.event ∧ g.time = formed.time ∧ g.tag = formed.tag)
            ∧ (f.event ≠ none → g.event = f.event ∧ g.time = f.time ∧ g.tag = f.tag)
            ∧ g.count.toNat = min 65535 (formed.count.toNat + f.count.toNat)
            ∧ g.flags = (formed.flags.union f.flags).union
                { saturated := decide (65535 < formed.count.toNat + f.count.toNat) }
            ∧ (∀ src', src' ≠ src → u.report src' = s.report src')
            ∧ ∀ n : SlotNumber, u.slots[n].arming = s.slots[n].arming ∧ u.slots[n].generation = s.slots[n].generation)
        ∧ (¬ writes → exec (.completionWriteError .own) s = .next u)
        ∧ (writes → exec (.completionWriteError .own) s = .next (faulting .completionWrite
            { u with fetch := { u.fetch with
                inFlight := none
                abandoned := if u.fetch.inFlight = none then u.fetch.abandoned else u.fetch.abandoned + 1 } })))
      ∧ ∀ c, c = Instr.completionWriteError .abandoned ∨ c = .reportWriteAck .abandoned ∨ c = .responseWriteAck .abandoned →
          exec c s = .next { s with writer := { s.writer with abandoned := s.writer.abandoned - 1 } }

/-- A delay timer that has run out sets COMPLETION, makes the moderation count 0 and stops; a stopped or running timer does
not expire (R164; log 14). -/
def Obligations.ModerationDelaySignalsCompletion : Prop :=
  ∀ s : State,
    (s.writer.delayTimer = some 0 → exec .moderationDelayExpiry s = .next { s with
        writer := { s.writer with moderationCount := 0, delayTimer := none }
        control := { s.control with intCause := s.control.intCause ||| 1 } })
      ∧ (s.writer.delayTimer ≠ some 0 → exec .moderationDelayExpiry s = .next s)

/-! # Layouts -/

/-- The three record layouts read back what they write, every field at every value, and no two records share their bytes
(R165). -/
def Sys2Proof.Claims.LayoutsRoundTrip : Prop :=
  (∀ r : Record, decodeRecord (encodeRecord r) = r) ∧ (∀ b : ConfigBlock, decodeBlock (encodeBlock b) = b)
    ∧ (∀ c : CompletionRecord, decodeCompletion (encodeCompletion c) = c)
    ∧ (∀ m : Image64, encodeRecord (decodeRecord m) = m) ∧ (∀ m : Image64, encodeBlock (decodeBlock m) = m)
    ∧ ∀ m : Image32, encodeCompletion (decodeCompletion m) = m

/-- Every field of the configuration block stands at the offset and size of 11.2, little-endian (R165). -/
def Sys2Proof.Claims.BlockFieldsStandAtTheirOffsets : Prop :=
  ∀ b : ConfigBlock, let at_ := fieldAt (encodeBlock b)
    at_ 0 2 = b.format.toNat ∧ at_ 2 1 = b.submissionLog2.toNat ∧ at_ 3 1 = b.completionLog2.toNat
      ∧ at_ 4 4 = b.divider.toNat ∧ at_ 8 8 = b.submissionBase.toNat ∧ at_ 16 8 = b.completionBase.toNat
      ∧ at_ 24 2 = b.enableMask.toNat ∧ at_ 26 2 = b.defaultMask.toNat ∧ at_ 28 2 = b.safeMask.toNat
      ∧ at_ 30 2 = b.participateMask.toNat ∧ at_ 32 1 = b.threshold.toNat ∧ at_ 33 1 = b.options.toNat
      ∧ at_ 34 2 = b.moderation.toNat ∧ ∀ i : Fin 28, at_ (36 + i.val) 1 = b.reserved[i].toNat

/-- Every field of the request record stands at the offset and size of 11.3, little-endian (R165). -/
def Sys2Proof.Claims.RequestFieldsStandAtTheirOffsets : Prop :=
  ∀ r : Record, let at_ := fieldAt (encodeRecord r); let b := r.body
    at_ 0 1 = r.kind.toNat ∧ at_ 1 1 = b.mode.toNat ∧ at_ 2 2 = b.flags.toNat ∧ at_ 4 2 = b.requestId.toNat
      ∧ at_ 6 2 = b.slot.toNat ∧ at_ 8 8 = b.timeValue.toNat ∧ at_ 16 4 = b.period.toNat ∧ at_ 20 4 = b.grace.toNat
      ∧ at_ 24 4 = b.delay.toNat ∧ at_ 28 4 = b.pulseWidth.toNat ∧ at_ 32 2 = b.limit.toNat
      ∧ at_ 34 2 = b.expectedGen.toNat ∧ at_ 36 2 = b.groupMask.toNat ∧ at_ 38 1 = b.group.toNat
      ∧ at_ 39 1 = b.outputLine.toNat ∧ at_ 40 1 = b.actionKind.toNat ∧ at_ 41 1 = b.inputLine.toNat
      ∧ at_ 42 1 = b.edgeSelect.toNat ∧ at_ 43 1 = b.reportPolicy.toNat ∧ at_ 44 1 = b.latePolicy.toNat
      ∧ at_ 45 1 = b.filterLength.toNat ∧ at_ 46 1 = b.tripLevel.toNat ∧ at_ 47 1 = b.reserved47.toNat
      ∧ at_ 48 8 = b.tag.toNat ∧ at_ 56 8 = b.reserved56.toNat

/-- Every field of the completion record stands at the offset and size of 11.4, little-endian (R165). -/
def Sys2Proof.Claims.CompletionFieldsStandAtTheirOffsets : Prop :=
  ∀ c : CompletionRecord, let at_ := fieldAt (encodeCompletion c)
    at_ 0 1 = c.type.toNat ∧ at_ 1 1 = c.code.toNat ∧ at_ 2 2 = c.flags.toNat ∧ at_ 4 4 = c.sequence.toNat
      ∧ at_ 8 8 = c.first.toNat ∧ at_ 16 8 = c.second.toNat ∧ at_ 24 2 = c.source.toNat ∧ at_ 26 2 = c.generation.toNat
      ∧ at_ 28 2 = c.idOrCount.toNat ∧ at_ 30 2 = c.submissionHead.toNat

/-- The three record layouts place every field at its offset, and read back what they write (11.2, 11.3, 11.4; R165). -/
def Obligations.LayoutsReadBackWhatTheyWrite : Prop :=
  LayoutsRoundTrip ∧ BlockFieldsStandAtTheirOffsets ∧ RequestFieldsStandAtTheirOffsets
    ∧ CompletionFieldsStandAtTheirOffsets

/-! # Invariants that every step keeps -/

/-- A property of states that every step keeps. -/
def Sys2Proof.Claims.KeptByEveryStep (Inv : State → Prop) : Prop := ∀ s t : State, Inv s → step s = .next t → Inv t

/-- The deadline list stays in order by deadline and slot number and holds exactly the slots with a deadline (R41, R42). -/
def Obligations.DeadlineListIsKept : Prop := KeptByEveryStep DeadlineListSound

/-- The report queue holds each source at most once, exactly those whose report is pending, and the source of a report
write in flight stays its head (R151, R156). -/
def Obligations.ReportQueueIsKept : Prop := KeptByEveryStep ReportQueueSound

/-- While TRIPPED every enabled participating line stays at its safe level without a pulse end (R70). -/
def Sys2Proof.Claims.SafeLevelsAreKept : Prop := KeptByEveryStep SafeLevelsHeld

/-- While CLEAR no cause is active or latched, and the input causes agree with the trip-level statuses (R78, R104). -/
def Sys2Proof.Claims.CausesAgreeWithTheInputs : Prop := KeptByEveryStep CausesSound

/-- The trip unit's two invariants (R70, R104). -/
def Obligations.SafeLevelsAndCausesAreKept : Prop :=
  SafeLevelsAreKept ∧ CausesAgreeWithTheInputs

/-- The traffic with memory stays as the controller state says: fetches, pauses, loads and writes (R119, R125, R137, R145).
That no origin is remembered outside LOADING is the model's choice (log 22). -/
def Obligations.TrafficFollowsTheControllerState : Prop := KeptByEveryStep TrafficSound

/-- Ring sizes, indices, fairness count, divider, tick phase and moderation stay in their ranges, and the write in flight
has the next index, sequence number and address and never lies on an unreleased record (R1, R2, R132, R147, R149,
R154, R164). -/
def Sys2Proof.Claims.CountersStayInRange : Prop := KeptByEveryStep fun s => RangesSound s ∧ RingSound s ∧ ModerationSound s

/-- A candidate stays opposite to the qualified level with a count of at most the filter length, and an edge under way stays
one to the qualified level (R76, R77, R82; how far an edge has come is the model's own record, log 7). -/
def Sys2Proof.Claims.InputLinesStaySound : Prop := KeptByEveryStep InputsSound

/-- Counters, indices and the write in flight stay in range, and so do the filters and edges of the input lines (R1, R2, R76,
R77, R82, R132, R147, R149, R154, R164; log 7). -/
def Obligations.RangesAreKept : Prop := CountersStayInRange ∧ InputLinesStaySound

/-- Device time and its counting state stay in agreement, and requests are taken and records written only while device
time is COUNTING or ENDED (R4, R5, R138). -/
def Obligations.CountingIsKept : Prop := KeptByEveryStep CountingSound

/-- The fence mark never exceeds the report queue, and a held FENCE response has one (R160, R161). -/
def Sys2Proof.Claims.FenceMarkIsKept : Prop := KeptByEveryStep FenceSound

/-- A write of a held FENCE response is in flight only when the mark is 0, that is, when every report ahead of it has been
written (R154, R161). -/
def Sys2Proof.Claims.FenceResponseComesLast : Prop :=
  KeptByEveryStep fun s => TrafficSound s ∧ FenceSound s ∧ FenceWrittenLast s

/-- While the response to an accepted ARM is held, no report of that slot is being written, so the response comes before
every report of the arming (R155). -/
def Sys2Proof.Claims.ArmResponseComesFirst : Prop := KeptByEveryStep fun s => ReportQueueSound s ∧ ArmResponseFirst s

/-- The places of FENCE and ARM responses among the reports (R155, R160, R161). -/
def Obligations.ResponsesKeepTheirPlace : Prop :=
  FenceMarkIsKept ∧ FenceResponseComesLast ∧ ArmResponseComesFirst

/-- Every slot stays in a state its mode allows, and no deadline and no pulse end lies before device time (R18, R44, R46,
R62). That it holds of the deadlines an edge under way places after a time step is log 38. -/
def Obligations.DeadlinesStayAhead : Prop :=
  KeptByEveryStep fun s => DeadlineListSound s ∧ SlotStatesSound s ∧ DeadlinesAhead s

/-- Every invariant holds right after power-on reset. -/
def Obligations.InvariantsHoldAtReset : Prop :=
  DeadlineListSound .reset ∧ ReportQueueSound .reset ∧ SafeLevelsHeld .reset ∧ CausesSound .reset ∧ TrafficSound .reset
    ∧ RangesSound .reset ∧ RingSound .reset ∧ ModerationSound .reset ∧ InputsSound .reset ∧ CountingSound .reset ∧ FenceSound .reset
    ∧ FenceWrittenLast .reset
    ∧ ArmResponseFirst .reset ∧ SlotStatesSound .reset ∧ DeadlinesAhead .reset

/-! # Rules over all commands -/

/-- No command but an ARM, its record's arrival and power-on reset changes the generation of any slot (R19). -/
def Obligations.OnlyArmChangesGenerations : Prop :=
  ∀ (c : Instr) (s : State), c ≠ .powerOnReset → (∀ r, c ≠ .arm r) →
    (∀ access data, c = .fetchDataArrives access data → data[0] ≠ 2) →
    ∃ t : State, exec c s = .next t ∧ ∀ n : SlotNumber, t.slots[n].generation = s.slots[n].generation

/-- A write or a read of the register window other than RESET, a code that CONTROL does not assign included, the issue of a
fetch or a completion write and the end of a write without error never touch the timers: device time, the armings, the
groups, the deadline list, the lines, the inputs and the trip unit stay as they are (chapter 8). -/
def Obligations.TrafficLeavesTheTimersAlone : Prop :=
  ∀ (c : Instr) (s : State),
    (c ∈ [Instr.start, .pause, .resume, .statusRead, .fetchIssue, .completionWriteIssue, .moderationDelayExpiry]
      ∨ (∃ v, c = .submitTailWrite v ∨ c = .completeHeadWrite v ∨ c = .intCauseWrite v ∨ ∃ x, c = .registerWrite x v)
      ∨ (∃ v, c = .controlWriteUnassignedCode v ∧ (v.toNat = 0 ∨ 4 < v.toNat))
      ∨ ∃ x, c = .reportWriteAck x ∨ c = .responseWriteAck x) →
    ∃ t : State, exec c s = .next t ∧ t.time = s.time ∧ t.groups = s.groups ∧ t.deadlineList = s.deadlineList
      ∧ t.lines = s.lines ∧ t.inputs = s.inputs ∧ t.trip = s.trip ∧ t.configurationPresent = s.configurationPresent
      ∧ ∀ n : SlotNumber, t.slots[n].arming = s.slots[n].arming
end
end

