-- ==== Sys2Proof/Laws/State.lean ====
section
/-! SUPPORT. One lemma per field per update of the state, each true by unfolding the update, so that no proof unfolds one. -/

namespace Sys2Proof.Machine

variable (s : State)

section
variable (x : TimeBase)
@[simp] theorem State.withTime_time : (s.withTime x).time = x := rfl
@[simp] theorem State.withTime_slots : (s.withTime x).slots = s.slots := rfl
@[simp] theorem State.withTime_groups : (s.withTime x).groups = s.groups := rfl
@[simp] theorem State.withTime_deadlineList : (s.withTime x).deadlineList = s.deadlineList := rfl
@[simp] theorem State.withTime_lines : (s.withTime x).lines = s.lines := rfl
@[simp] theorem State.withTime_configurationPresent : (s.withTime x).configurationPresent = s.configurationPresent := rfl
@[simp] theorem State.withTime_inputs : (s.withTime x).inputs = s.inputs := rfl
@[simp] theorem State.withTime_trip : (s.withTime x).trip = s.trip := rfl
@[simp] theorem State.withTime_fetch : (s.withTime x).fetch = s.fetch := rfl
@[simp] theorem State.withTime_held : (s.withTime x).held = s.held := rfl
@[simp] theorem State.withTime_writer : (s.withTime x).writer = s.writer := rfl
@[simp] theorem State.withTime_control : (s.withTime x).control = s.control := rfl
@[simp] theorem State.withTime_freeCount : (s.withTime x).freeCount = s.freeCount := rfl
@[simp] theorem State.withTime_pending : (s.withTime x).pending = s.pending := rfl
end

section
variable (x : Vector Slot 256)
@[simp] theorem State.withSlots_time : (s.withSlots x).time = s.time := rfl
@[simp] theorem State.withSlots_slots : (s.withSlots x).slots = x := rfl
@[simp] theorem State.withSlots_groups : (s.withSlots x).groups = s.groups := rfl
@[simp] theorem State.withSlots_deadlineList : (s.withSlots x).deadlineList = s.deadlineList := rfl
@[simp] theorem State.withSlots_lines : (s.withSlots x).lines = s.lines := rfl
@[simp] theorem State.withSlots_configurationPresent : (s.withSlots x).configurationPresent = s.configurationPresent := rfl
@[simp] theorem State.withSlots_inputs : (s.withSlots x).inputs = s.inputs := rfl
@[simp] theorem State.withSlots_trip : (s.withSlots x).trip = s.trip := rfl
@[simp] theorem State.withSlots_fetch : (s.withSlots x).fetch = s.fetch := rfl
@[simp] theorem State.withSlots_held : (s.withSlots x).held = s.held := rfl
@[simp] theorem State.withSlots_writer : (s.withSlots x).writer = s.writer := rfl
@[simp] theorem State.withSlots_control : (s.withSlots x).control = s.control := rfl
@[simp] theorem State.withSlots_freeCount : (s.withSlots x).freeCount = s.freeCount := rfl
@[simp] theorem State.withSlots_pending : (s.withSlots x).pending = s.pending := rfl
end

section
variable (x : Vector GroupState 16)
@[simp] theorem State.withGroups_time : (s.withGroups x).time = s.time := rfl
@[simp] theorem State.withGroups_slots : (s.withGroups x).slots = s.slots := rfl
@[simp] theorem State.withGroups_groups : (s.withGroups x).groups = x := rfl
@[simp] theorem State.withGroups_deadlineList : (s.withGroups x).deadlineList = s.deadlineList := rfl
@[simp] theorem State.withGroups_lines : (s.withGroups x).lines = s.lines := rfl
@[simp] theorem State.withGroups_configurationPresent : (s.withGroups x).configurationPresent = s.configurationPresent := rfl
@[simp] theorem State.withGroups_inputs : (s.withGroups x).inputs = s.inputs := rfl
@[simp] theorem State.withGroups_trip : (s.withGroups x).trip = s.trip := rfl
@[simp] theorem State.withGroups_fetch : (s.withGroups x).fetch = s.fetch := rfl
@[simp] theorem State.withGroups_held : (s.withGroups x).held = s.held := rfl
@[simp] theorem State.withGroups_writer : (s.withGroups x).writer = s.writer := rfl
@[simp] theorem State.withGroups_control : (s.withGroups x).control = s.control := rfl
@[simp] theorem State.withGroups_freeCount : (s.withGroups x).freeCount = s.freeCount := rfl
@[simp] theorem State.withGroups_pending : (s.withGroups x).pending = s.pending := rfl
end

section
variable (x : List SlotNumber)
@[simp] theorem State.withDeadlineList_time : (s.withDeadlineList x).time = s.time := rfl
@[simp] theorem State.withDeadlineList_slots : (s.withDeadlineList x).slots = s.slots := rfl
@[simp] theorem State.withDeadlineList_groups : (s.withDeadlineList x).groups = s.groups := rfl
@[simp] theorem State.withDeadlineList_deadlineList : (s.withDeadlineList x).deadlineList = x := rfl
@[simp] theorem State.withDeadlineList_lines : (s.withDeadlineList x).lines = s.lines := rfl
@[simp] theorem State.withDeadlineList_configurationPresent : (s.withDeadlineList x).configurationPresent = s.configurationPresent := rfl
@[simp] theorem State.withDeadlineList_inputs : (s.withDeadlineList x).inputs = s.inputs := rfl
@[simp] theorem State.withDeadlineList_trip : (s.withDeadlineList x).trip = s.trip := rfl
@[simp] theorem State.withDeadlineList_fetch : (s.withDeadlineList x).fetch = s.fetch := rfl
@[simp] theorem State.withDeadlineList_held : (s.withDeadlineList x).held = s.held := rfl
@[simp] theorem State.withDeadlineList_writer : (s.withDeadlineList x).writer = s.writer := rfl
@[simp] theorem State.withDeadlineList_control : (s.withDeadlineList x).control = s.control := rfl
@[simp] theorem State.withDeadlineList_freeCount : (s.withDeadlineList x).freeCount = s.freeCount := rfl
@[simp] theorem State.withDeadlineList_pending : (s.withDeadlineList x).pending = s.pending := rfl
end

section
variable (x : Vector OutputLine 16)
@[simp] theorem State.withLines_time : (s.withLines x).time = s.time := rfl
@[simp] theorem State.withLines_slots : (s.withLines x).slots = s.slots := rfl
@[simp] theorem State.withLines_groups : (s.withLines x).groups = s.groups := rfl
@[simp] theorem State.withLines_deadlineList : (s.withLines x).deadlineList = s.deadlineList := rfl
@[simp] theorem State.withLines_lines : (s.withLines x).lines = x := rfl
@[simp] theorem State.withLines_configurationPresent : (s.withLines x).configurationPresent = s.configurationPresent := rfl
@[simp] theorem State.withLines_inputs : (s.withLines x).inputs = s.inputs := rfl
@[simp] theorem State.withLines_trip : (s.withLines x).trip = s.trip := rfl
@[simp] theorem State.withLines_fetch : (s.withLines x).fetch = s.fetch := rfl
@[simp] theorem State.withLines_held : (s.withLines x).held = s.held := rfl
@[simp] theorem State.withLines_writer : (s.withLines x).writer = s.writer := rfl
@[simp] theorem State.withLines_control : (s.withLines x).control = s.control := rfl
@[simp] theorem State.withLines_freeCount : (s.withLines x).freeCount = s.freeCount := rfl
@[simp] theorem State.withLines_pending : (s.withLines x).pending = s.pending := rfl
end

section
variable (x : Bool)
@[simp] theorem State.withConfigurationPresent_time : (s.withConfigurationPresent x).time = s.time := rfl
@[simp] theorem State.withConfigurationPresent_slots : (s.withConfigurationPresent x).slots = s.slots := rfl
@[simp] theorem State.withConfigurationPresent_groups : (s.withConfigurationPresent x).groups = s.groups := rfl
@[simp] theorem State.withConfigurationPresent_deadlineList : (s.withConfigurationPresent x).deadlineList = s.deadlineList := rfl
@[simp] theorem State.withConfigurationPresent_lines : (s.withConfigurationPresent x).lines = s.lines := rfl
@[simp] theorem State.withConfigurationPresent_configurationPresent : (s.withConfigurationPresent x).configurationPresent = x := rfl
@[simp] theorem State.withConfigurationPresent_inputs : (s.withConfigurationPresent x).inputs = s.inputs := rfl
@[simp] theorem State.withConfigurationPresent_trip : (s.withConfigurationPresent x).trip = s.trip := rfl
@[simp] theorem State.withConfigurationPresent_fetch : (s.withConfigurationPresent x).fetch = s.fetch := rfl
@[simp] theorem State.withConfigurationPresent_held : (s.withConfigurationPresent x).held = s.held := rfl
@[simp] theorem State.withConfigurationPresent_writer : (s.withConfigurationPresent x).writer = s.writer := rfl
@[simp] theorem State.withConfigurationPresent_control : (s.withConfigurationPresent x).control = s.control := rfl
@[simp] theorem State.withConfigurationPresent_freeCount : (s.withConfigurationPresent x).freeCount = s.freeCount := rfl
@[simp] theorem State.withConfigurationPresent_pending : (s.withConfigurationPresent x).pending = s.pending := rfl
end

section
variable (x : Vector InputLine 8)
@[simp] theorem State.withInputs_time : (s.withInputs x).time = s.time := rfl
@[simp] theorem State.withInputs_slots : (s.withInputs x).slots = s.slots := rfl
@[simp] theorem State.withInputs_groups : (s.withInputs x).groups = s.groups := rfl
@[simp] theorem State.withInputs_deadlineList : (s.withInputs x).deadlineList = s.deadlineList := rfl
@[simp] theorem State.withInputs_lines : (s.withInputs x).lines = s.lines := rfl
@[simp] theorem State.withInputs_configurationPresent : (s.withInputs x).configurationPresent = s.configurationPresent := rfl
@[simp] theorem State.withInputs_inputs : (s.withInputs x).inputs = x := rfl
@[simp] theorem State.withInputs_trip : (s.withInputs x).trip = s.trip := rfl
@[simp] theorem State.withInputs_fetch : (s.withInputs x).fetch = s.fetch := rfl
@[simp] theorem State.withInputs_held : (s.withInputs x).held = s.held := rfl
@[simp] theorem State.withInputs_writer : (s.withInputs x).writer = s.writer := rfl
@[simp] theorem State.withInputs_control : (s.withInputs x).control = s.control := rfl
@[simp] theorem State.withInputs_freeCount : (s.withInputs x).freeCount = s.freeCount := rfl
@[simp] theorem State.withInputs_pending : (s.withInputs x).pending = s.pending := rfl
end

section
variable (x : TripUnit)
@[simp] theorem State.withTrip_time : (s.withTrip x).time = s.time := rfl
@[simp] theorem State.withTrip_slots : (s.withTrip x).slots = s.slots := rfl
@[simp] theorem State.withTrip_groups : (s.withTrip x).groups = s.groups := rfl
@[simp] theorem State.withTrip_deadlineList : (s.withTrip x).deadlineList = s.deadlineList := rfl
@[simp] theorem State.withTrip_lines : (s.withTrip x).lines = s.lines := rfl
@[simp] theorem State.withTrip_configurationPresent : (s.withTrip x).configurationPresent = s.configurationPresent := rfl
@[simp] theorem State.withTrip_inputs : (s.withTrip x).inputs = s.inputs := rfl
@[simp] theorem State.withTrip_trip : (s.withTrip x).trip = x := rfl
@[simp] theorem State.withTrip_fetch : (s.withTrip x).fetch = s.fetch := rfl
@[simp] theorem State.withTrip_held : (s.withTrip x).held = s.held := rfl
@[simp] theorem State.withTrip_writer : (s.withTrip x).writer = s.writer := rfl
@[simp] theorem State.withTrip_control : (s.withTrip x).control = s.control := rfl
@[simp] theorem State.withTrip_freeCount : (s.withTrip x).freeCount = s.freeCount := rfl
@[simp] theorem State.withTrip_pending : (s.withTrip x).pending = s.pending := rfl
end

section
variable (x : FetchUnit)
@[simp] theorem State.withFetch_time : (s.withFetch x).time = s.time := rfl
@[simp] theorem State.withFetch_slots : (s.withFetch x).slots = s.slots := rfl
@[simp] theorem State.withFetch_groups : (s.withFetch x).groups = s.groups := rfl
@[simp] theorem State.withFetch_deadlineList : (s.withFetch x).deadlineList = s.deadlineList := rfl
@[simp] theorem State.withFetch_lines : (s.withFetch x).lines = s.lines := rfl
@[simp] theorem State.withFetch_configurationPresent : (s.withFetch x).configurationPresent = s.configurationPresent := rfl
@[simp] theorem State.withFetch_inputs : (s.withFetch x).inputs = s.inputs := rfl
@[simp] theorem State.withFetch_trip : (s.withFetch x).trip = s.trip := rfl
@[simp] theorem State.withFetch_fetch : (s.withFetch x).fetch = x := rfl
@[simp] theorem State.withFetch_held : (s.withFetch x).held = s.held := rfl
@[simp] theorem State.withFetch_writer : (s.withFetch x).writer = s.writer := rfl
@[simp] theorem State.withFetch_control : (s.withFetch x).control = s.control := rfl
@[simp] theorem State.withFetch_freeCount : (s.withFetch x).freeCount = s.freeCount := rfl
@[simp] theorem State.withFetch_pending : (s.withFetch x).pending = s.pending := rfl
end

section
variable (x : Option HeldResponse)
@[simp] theorem State.withHeld_time : (s.withHeld x).time = s.time := rfl
@[simp] theorem State.withHeld_slots : (s.withHeld x).slots = s.slots := rfl
@[simp] theorem State.withHeld_groups : (s.withHeld x).groups = s.groups := rfl
@[simp] theorem State.withHeld_deadlineList : (s.withHeld x).deadlineList = s.deadlineList := rfl
@[simp] theorem State.withHeld_lines : (s.withHeld x).lines = s.lines := rfl
@[simp] theorem State.withHeld_configurationPresent : (s.withHeld x).configurationPresent = s.configurationPresent := rfl
@[simp] theorem State.withHeld_inputs : (s.withHeld x).inputs = s.inputs := rfl
@[simp] theorem State.withHeld_trip : (s.withHeld x).trip = s.trip := rfl
@[simp] theorem State.withHeld_fetch : (s.withHeld x).fetch = s.fetch := rfl
@[simp] theorem State.withHeld_held : (s.withHeld x).held = x := rfl
@[simp] theorem State.withHeld_writer : (s.withHeld x).writer = s.writer := rfl
@[simp] theorem State.withHeld_control : (s.withHeld x).control = s.control := rfl
@[simp] theorem State.withHeld_freeCount : (s.withHeld x).freeCount = s.freeCount := rfl
@[simp] theorem State.withHeld_pending : (s.withHeld x).pending = s.pending := rfl
end

section
variable (x : CompletionWriter)
@[simp] theorem State.withWriter_time : (s.withWriter x).time = s.time := rfl
@[simp] theorem State.withWriter_slots : (s.withWriter x).slots = s.slots := rfl
@[simp] theorem State.withWriter_groups : (s.withWriter x).groups = s.groups := rfl
@[simp] theorem State.withWriter_deadlineList : (s.withWriter x).deadlineList = s.deadlineList := rfl
@[simp] theorem State.withWriter_lines : (s.withWriter x).lines = s.lines := rfl
@[simp] theorem State.withWriter_configurationPresent : (s.withWriter x).configurationPresent = s.configurationPresent := rfl
@[simp] theorem State.withWriter_inputs : (s.withWriter x).inputs = s.inputs := rfl
@[simp] theorem State.withWriter_trip : (s.withWriter x).trip = s.trip := rfl
@[simp] theorem State.withWriter_fetch : (s.withWriter x).fetch = s.fetch := rfl
@[simp] theorem State.withWriter_held : (s.withWriter x).held = s.held := rfl
@[simp] theorem State.withWriter_writer : (s.withWriter x).writer = x := rfl
@[simp] theorem State.withWriter_control : (s.withWriter x).control = s.control := rfl
@[simp] theorem State.withWriter_freeCount : (s.withWriter x).freeCount = s.freeCount := rfl
@[simp] theorem State.withWriter_pending : (s.withWriter x).pending = s.pending := rfl
end

section
variable (x : ControlBlock)
@[simp] theorem State.withControl_time : (s.withControl x).time = s.time := rfl
@[simp] theorem State.withControl_slots : (s.withControl x).slots = s.slots := rfl
@[simp] theorem State.withControl_groups : (s.withControl x).groups = s.groups := rfl
@[simp] theorem State.withControl_deadlineList : (s.withControl x).deadlineList = s.deadlineList := rfl
@[simp] theorem State.withControl_lines : (s.withControl x).lines = s.lines := rfl
@[simp] theorem State.withControl_configurationPresent : (s.withControl x).configurationPresent = s.configurationPresent := rfl
@[simp] theorem State.withControl_inputs : (s.withControl x).inputs = s.inputs := rfl
@[simp] theorem State.withControl_trip : (s.withControl x).trip = s.trip := rfl
@[simp] theorem State.withControl_fetch : (s.withControl x).fetch = s.fetch := rfl
@[simp] theorem State.withControl_held : (s.withControl x).held = s.held := rfl
@[simp] theorem State.withControl_writer : (s.withControl x).writer = s.writer := rfl
@[simp] theorem State.withControl_control : (s.withControl x).control = x := rfl
@[simp] theorem State.withControl_freeCount : (s.withControl x).freeCount = s.freeCount := rfl
@[simp] theorem State.withControl_pending : (s.withControl x).pending = s.pending := rfl
end

section
variable (x : Nat)
@[simp] theorem State.withFreeCount_time : (s.withFreeCount x).time = s.time := rfl
@[simp] theorem State.withFreeCount_slots : (s.withFreeCount x).slots = s.slots := rfl
@[simp] theorem State.withFreeCount_groups : (s.withFreeCount x).groups = s.groups := rfl
@[simp] theorem State.withFreeCount_deadlineList : (s.withFreeCount x).deadlineList = s.deadlineList := rfl
@[simp] theorem State.withFreeCount_lines : (s.withFreeCount x).lines = s.lines := rfl
@[simp] theorem State.withFreeCount_configurationPresent : (s.withFreeCount x).configurationPresent = s.configurationPresent := rfl
@[simp] theorem State.withFreeCount_inputs : (s.withFreeCount x).inputs = s.inputs := rfl
@[simp] theorem State.withFreeCount_trip : (s.withFreeCount x).trip = s.trip := rfl
@[simp] theorem State.withFreeCount_fetch : (s.withFreeCount x).fetch = s.fetch := rfl
@[simp] theorem State.withFreeCount_held : (s.withFreeCount x).held = s.held := rfl
@[simp] theorem State.withFreeCount_writer : (s.withFreeCount x).writer = s.writer := rfl
@[simp] theorem State.withFreeCount_control : (s.withFreeCount x).control = s.control := rfl
@[simp] theorem State.withFreeCount_freeCount : (s.withFreeCount x).freeCount = x := rfl
@[simp] theorem State.withFreeCount_pending : (s.withFreeCount x).pending = s.pending := rfl
end

section
variable (x : List Instr)
@[simp] theorem State.withPending_time : (s.withPending x).time = s.time := rfl
@[simp] theorem State.withPending_slots : (s.withPending x).slots = s.slots := rfl
@[simp] theorem State.withPending_groups : (s.withPending x).groups = s.groups := rfl
@[simp] theorem State.withPending_deadlineList : (s.withPending x).deadlineList = s.deadlineList := rfl
@[simp] theorem State.withPending_lines : (s.withPending x).lines = s.lines := rfl
@[simp] theorem State.withPending_configurationPresent : (s.withPending x).configurationPresent = s.configurationPresent := rfl
@[simp] theorem State.withPending_inputs : (s.withPending x).inputs = s.inputs := rfl
@[simp] theorem State.withPending_trip : (s.withPending x).trip = s.trip := rfl
@[simp] theorem State.withPending_fetch : (s.withPending x).fetch = s.fetch := rfl
@[simp] theorem State.withPending_held : (s.withPending x).held = s.held := rfl
@[simp] theorem State.withPending_writer : (s.withPending x).writer = s.writer := rfl
@[simp] theorem State.withPending_control : (s.withPending x).control = s.control := rfl
@[simp] theorem State.withPending_freeCount : (s.withPending x).freeCount = s.freeCount := rfl
@[simp] theorem State.withPending_pending : (s.withPending x).pending = x := rfl
end

end Sys2Proof.Machine
end

