-- ==== Sys2Proof/Laws/Ops.lean ====
section
/-! SUPPORT. What the shared operations of Machine/Ops.lean do, said once for each, so that no proof unfolds them: times, slots,
reports, events, actions, raises. -/

namespace Sys2Proof.Machine

/-! ## Times -/

theorem later?_eq_some {t : Time} {n : Nat} (h : t.toNat + n < 2 ^ 64) :
    later? t n = some (BitVec.ofNat 64 (t.toNat + n)) := by
  simp only [later?, if_pos h]

theorem later?_eq_none {t : Time} {n : Nat} (h : 2 ^ 64 ≤ t.toNat + n) : later? t n = none := by
  have : ¬ t.toNat + n < 2 ^ 64 := by omega
  simp only [later?, if_neg this]

theorem later?_spec {t d : Time} {n : Nat} (h : later? t n = some d) : d.toNat = t.toNat + n := by
  unfold later? at h
  split at h
  · rename_i hlt
    rw [← Option.some.inj h, BitVec.toNat_ofNat, Nat.mod_eq_of_lt hlt]
  · simp at h

/-! ## Slots: a slot is set, no other slot changes, and beyond the slots only the deadline list does -/

@[simp] theorem State.putSlot_slot (n : SlotNumber) (sl : Slot) (s : State) : (s.putSlot n sl).slots[n] = sl := by
  simp [State.putSlot, State.withSlots, State.withDeadlineList]

theorem State.putSlot_slot_ne {n m : SlotNumber} (sl : Slot) (s : State) (h : m ≠ n) :
    (s.putSlot n sl).slots[m] = s.slots[m] := by
  have hv : n.val ≠ m.val := fun e => h (Fin.ext e.symm)
  simp [State.putSlot, State.withSlots, State.withDeadlineList, Vector.getElem_set_ne, hv]

theorem State.putSlot_frame (n : SlotNumber) (sl : Slot) (s : State) :
    s.putSlot n sl =
      { s with slots := (s.putSlot n sl).slots, deadlineList := (s.putSlot n sl).deadlineList } := rfl

@[simp] theorem State.putArming_slot (n : SlotNumber) (a : Option Arming) (s : State) :
    (s.putArming n a).slots[n] = { s.slots[n] with arming := a } := State.putSlot_slot n _ s

theorem State.putArming_slot_ne {n m : SlotNumber} (a : Option Arming) (s : State) (h : m ≠ n) :
    (s.putArming n a).slots[m] = s.slots[m] := State.putSlot_slot_ne _ s h

theorem State.putArming_frame (n : SlotNumber) (a : Option Arming) (s : State) :
    s.putArming n a =
      { s with slots := (s.putArming n a).slots, deadlineList := (s.putArming n a).deadlineList } := rfl

@[simp] theorem State.putArming_time (n : SlotNumber) (a : Option Arming) (s : State) :
    (s.putArming n a).time = s.time := rfl
@[simp] theorem State.putArming_lines (n : SlotNumber) (a : Option Arming) (s : State) :
    (s.putArming n a).lines = s.lines := rfl
@[simp] theorem State.putArming_inputs (n : SlotNumber) (a : Option Arming) (s : State) :
    (s.putArming n a).inputs = s.inputs := rfl
@[simp] theorem State.putArming_trip (n : SlotNumber) (a : Option Arming) (s : State) :
    (s.putArming n a).trip = s.trip := rfl
@[simp] theorem State.putArming_fetch (n : SlotNumber) (a : Option Arming) (s : State) :
    (s.putArming n a).fetch = s.fetch := rfl
@[simp] theorem State.putArming_held (n : SlotNumber) (a : Option Arming) (s : State) :
    (s.putArming n a).held = s.held := rfl
@[simp] theorem State.putArming_writer (n : SlotNumber) (a : Option Arming) (s : State) :
    (s.putArming n a).writer = s.writer := rfl
@[simp] theorem State.putArming_control (n : SlotNumber) (a : Option Arming) (s : State) :
    (s.putArming n a).control = s.control := rfl
@[simp] theorem State.putArming_groups (n : SlotNumber) (a : Option Arming) (s : State) :
    (s.putArming n a).groups = s.groups := rfl

/-! ## The deadline list -/

theorem mem_insertDeadline (slots : Vector Slot 256) (n m : SlotNumber) (l : List SlotNumber) :
    m ∈ insertDeadline slots n l ↔ m = n ∨ m ∈ l := by
  induction l with
  | nil => simp [insertDeadline]
  | cons x xs ih =>
    simp only [insertDeadline]
    split <;> simp [ih]
    tauto

theorem insertDeadline_perm (slots : Vector Slot 256) (n : SlotNumber) (l : List SlotNumber) :
    (insertDeadline slots n l).Perm (n :: l) := by
  induction l with
  | nil => simp [insertDeadline]
  | cons x xs ih =>
    simp only [insertDeadline]
    split
    · exact List.Perm.refl _
    · exact (ih.cons x).trans (List.Perm.swap n x xs)

/-- An insertion keeps the order when no entry shares the key of the slot that is inserted. -/
theorem insertDeadline_pairwise (slots : Vector Slot 256) (n : SlotNumber) (l : List SlotNumber)
    (h : l.Pairwise fun a b => deadlineKey slots a < deadlineKey slots b)
    (hne : ∀ m ∈ l, deadlineKey slots m ≠ deadlineKey slots n) :
    (insertDeadline slots n l).Pairwise fun a b => deadlineKey slots a < deadlineKey slots b := by
  induction l with
  | nil => simp [insertDeadline]
  | cons x xs ih =>
    rw [List.pairwise_cons] at h
    simp only [insertDeadline]
    split
    · rename_i hlt
      refine List.pairwise_cons.2 ⟨fun m hm => ?_, List.pairwise_cons.2 h⟩
      rcases List.mem_cons.1 hm with rfl | hm
      · exact hlt
      · exact hlt.trans (h.1 m hm)
    · rename_i hlt
      have hx := hne x (by simp)
      refine List.pairwise_cons.2 ⟨fun m hm => ?_, ih h.2 fun m hm => hne m (by simp [hm])⟩
      rcases (mem_insertDeadline slots n m xs).1 hm with rfl | hm
      · omega
      · exact h.1 m hm

/-- Two slots with the same key are the same slot. -/
theorem deadlineKey_injective (slots : Vector Slot 256) {n m : SlotNumber}
    (h : deadlineKey slots n = deadlineKey slots m) : n = m := by
  unfold deadlineKey at h
  apply Fin.ext
  omega

theorem sortDeadlines_perm (slots : Vector Slot 256) (l : List SlotNumber) : (sortDeadlines slots l).Perm l := by
  induction l with
  | nil => simp [sortDeadlines]
  | cons x xs ih =>
    show (insertDeadline slots x (sortDeadlines slots xs)).Perm (x :: xs)
    exact (insertDeadline_perm slots x _).trans (ih.cons x)

/-! ## Reports -/

@[simp] theorem State.putReport_report (src : Source) (r : Report) (s : State) : (s.putReport src r).report src = r := by
  cases src <;> simp [State.putReport, State.report, State.withSlots, State.withWriter]

theorem State.putReport_report_ne {src src' : Source} (r : Report) (s : State) (h : src' ≠ src) :
    (s.putReport src r).report src' = s.report src' := by
  cases src <;> cases src' <;> simp_all [State.putReport, State.report, State.withSlots, State.withWriter]
  rename_i a b
  have hv : a.val ≠ b.val := fun e => h (Fin.ext e.symm)
  simp [Vector.getElem_set_ne, hv]

/-- Setting a report keeps the arming and the generation of every slot. -/
theorem State.putReport_slot (src : Source) (r : Report) (s : State) (n : SlotNumber) :
    (s.putReport src r).slots[n].arming = s.slots[n].arming
      ∧ (s.putReport src r).slots[n].generation = s.slots[n].generation := by
  cases src <;> simp [State.putReport, State.withSlots, State.withWriter]
  rename_i m
  by_cases h : m.val = n.val
  · simp [h]
  · simp [Vector.getElem_set_ne, h]

theorem State.putReport_frame (src : Source) (r : Report) (s : State) :
    s.putReport src r =
      { s with
        slots := (s.putReport src r).slots
        writer := { s.writer with controllerEntry := (s.putReport src r).writer.controllerEntry } } := by
  cases src <;> rfl

theorem State.enqueue_report (src src' : Source) (s : State) : (s.enqueue src).report src' = s.report src' := by
  cases src' <;> rfl

theorem State.noteWrite_report (src src' : Source) (f : CompletionWrite → CompletionWrite) (s : State) :
    (s.noteWrite src f).report src' = s.report src' := by
  cases src' <;> rfl

/-! ## Events: what recording one can do -/

theorem State.makePending_report_ne {src src' : Source} (s : State) (h : src' ≠ src) :
    (s.makePending src).report src' = s.report src' := by
  unfold State.makePending
  split
  · rw [State.enqueue_report, State.putReport_report_ne _ _ h]
  · rw [State.noteWrite_report]

theorem State.recordEvent_report_ne {src src' : Source} (o : Occurrence) (mp : Bool) (s : State) (h : src' ≠ src) :
    (s.recordEvent src o mp).report src' = s.report src' := by
  unfold State.recordEvent
  cases mp
  · exact State.putReport_report_ne _ _ h
  · simp only [if_true]
    rw [State.makePending_report_ne _ h, State.putReport_report_ne _ _ h]

/-- An event leaves the report with the event coalesced, pending if the event makes it so. -/
theorem State.recordEvent_report (src : Source) (o : Occurrence) (mp : Bool) (s : State) :
    (s.recordEvent src o mp).report src =
      { state := if mp then .pending else (s.report src).state, fields := (s.report src).fields.coalesce o } := by
  unfold State.recordEvent
  cases mp
  · simp
  · simp only [if_true, State.makePending, State.putReport_report]
    cases h : (s.report src).state <;> simp only
    · rw [State.enqueue_report]; simp
    · rw [State.noteWrite_report]; simp

theorem State.makePending_slot (src : Source) (s : State) (n : SlotNumber) :
    (s.makePending src).slots[n].arming = s.slots[n].arming
      ∧ (s.makePending src).slots[n].generation = s.slots[n].generation := by
  unfold State.makePending
  cases (s.report src).state
  · exact State.putReport_slot src _ s n
  · exact ⟨rfl, rfl⟩

/-- An event keeps the arming and the generation of every slot. -/
theorem State.recordEvent_slot (src : Source) (o : Occurrence) (mp : Bool) (s : State) (n : SlotNumber) :
    (s.recordEvent src o mp).slots[n].arming = s.slots[n].arming
      ∧ (s.recordEvent src o mp).slots[n].generation = s.slots[n].generation := by
  have h := State.putReport_slot src { s.report src with fields := (s.report src).fields.coalesce o } s n
  unfold State.recordEvent
  cases mp
  · exact h
  · have h' := State.makePending_slot src
      (s.putReport src { s.report src with fields := (s.report src).fields.coalesce o }) n
    exact ⟨h'.1.trans h.1, h'.2.trans h.2⟩

/-- An event changes slot reports and, of the completion writer, the queue, the note of the write in flight and the
controller entry; nothing else. -/
theorem State.recordEvent_frame (src : Source) (o : Occurrence) (mp : Bool) (s : State) :
    s.recordEvent src o mp =
      { s with
        slots := (s.recordEvent src o mp).slots
        writer := { s.writer with
          queue := (s.recordEvent src o mp).writer.queue
          inFlight := (s.recordEvent src o mp).writer.inFlight
          controllerEntry := (s.recordEvent src o mp).writer.controllerEntry } } := by
  cases mp
  · cases src <;> rfl
  · simp only [State.recordEvent, if_true, State.makePending]
    cases h : ((s.putReport src { s.report src with fields := (s.report src).fields.coalesce o }).report src).state <;>
      cases src <;> rfl

@[simp] theorem State.recordEvent_time (src : Source) (o : Occurrence) (mp : Bool) (s : State) :
    (s.recordEvent src o mp).time = s.time := by rw [State.recordEvent_frame]
@[simp] theorem State.recordEvent_groups (src : Source) (o : Occurrence) (mp : Bool) (s : State) :
    (s.recordEvent src o mp).groups = s.groups := by rw [State.recordEvent_frame]
@[simp] theorem State.recordEvent_deadlineList (src : Source) (o : Occurrence) (mp : Bool) (s : State) :
    (s.recordEvent src o mp).deadlineList = s.deadlineList := by rw [State.recordEvent_frame]
@[simp] theorem State.recordEvent_lines (src : Source) (o : Occurrence) (mp : Bool) (s : State) :
    (s.recordEvent src o mp).lines = s.lines := by rw [State.recordEvent_frame]
@[simp] theorem State.recordEvent_inputs (src : Source) (o : Occurrence) (mp : Bool) (s : State) :
    (s.recordEvent src o mp).inputs = s.inputs := by rw [State.recordEvent_frame]
@[simp] theorem State.recordEvent_trip (src : Source) (o : Occurrence) (mp : Bool) (s : State) :
    (s.recordEvent src o mp).trip = s.trip := by rw [State.recordEvent_frame]
@[simp] theorem State.recordEvent_fetch (src : Source) (o : Occurrence) (mp : Bool) (s : State) :
    (s.recordEvent src o mp).fetch = s.fetch := by rw [State.recordEvent_frame]
@[simp] theorem State.recordEvent_held (src : Source) (o : Occurrence) (mp : Bool) (s : State) :
    (s.recordEvent src o mp).held = s.held := by rw [State.recordEvent_frame]
@[simp] theorem State.recordEvent_control (src : Source) (o : Occurrence) (mp : Bool) (s : State) :
    (s.recordEvent src o mp).control = s.control := by rw [State.recordEvent_frame]

/-! ## Actions: only lines change -/

theorem State.performAction_frame (x : Option Action) (s : State) :
    s.performAction x = { s with lines := (s.performAction x).lines } := by
  unfold State.performAction
  split
  · rfl
  · split <;> rfl

@[simp] theorem State.performAction_time (x : Option Action) (s : State) : (s.performAction x).time = s.time := by
  rw [State.performAction_frame]
@[simp] theorem State.performAction_slots (x : Option Action) (s : State) : (s.performAction x).slots = s.slots := by
  rw [State.performAction_frame]
@[simp] theorem State.performAction_deadlineList (x : Option Action) (s : State) :
    (s.performAction x).deadlineList = s.deadlineList := by rw [State.performAction_frame]
@[simp] theorem State.performAction_trip (x : Option Action) (s : State) : (s.performAction x).trip = s.trip := by
  rw [State.performAction_frame]
@[simp] theorem State.performAction_writer (x : Option Action) (s : State) : (s.performAction x).writer = s.writer := by
  rw [State.performAction_frame]
@[simp] theorem State.performAction_control (x : Option Action) (s : State) :
    (s.performAction x).control = s.control := by rw [State.performAction_frame]
@[simp] theorem State.performAction_fetch (x : Option Action) (s : State) : (s.performAction x).fetch = s.fetch := by
  rw [State.performAction_frame]
@[simp] theorem State.performAction_held (x : Option Action) (s : State) : (s.performAction x).held = s.held := by
  rw [State.performAction_frame]

/-! ## Raises -/

/-- The trip unit after a raise: tripped, the cause added, the record filled when it was CLEAR. -/
theorem State.raise_trip (r : Raise) (s : State) :
    (s.raise r).trip =
      match s.trip.state with
      | .clear => { s.trip.addCause r with
          state := .tripped, record := { kind := r.kind, index := r.index, time := s.time.now } }
      | .tripped => s.trip.addCause r := by
  unfold State.raise
  cases s.trip.state <;> simp only [State.recordTripEvent, State.recordEvent_trip] <;> rfl

/-- A raise changes lines, the trip unit, the interrupt causes and the report of the controller entry; nothing else. -/
theorem State.raise_frame (r : Raise) (s : State) :
    s.raise r =
      { s with
        lines := (s.raise r).lines, trip := (s.raise r).trip
        control := { s.control with intCause := (s.raise r).control.intCause }
        writer := { s.writer with
          queue := (s.raise r).writer.queue, inFlight := (s.raise r).writer.inFlight
          controllerEntry := (s.raise r).writer.controllerEntry } } := by
  unfold State.raise State.recordTripEvent State.recordEvent State.makePending
  cases s.trip.state <;> simp only [if_true] <;> split <;> rfl

@[simp] theorem State.raise_time (r : Raise) (s : State) : (s.raise r).time = s.time := by rw [State.raise_frame]
@[simp] theorem State.raise_slots (r : Raise) (s : State) : (s.raise r).slots = s.slots := by rw [State.raise_frame]
@[simp] theorem State.raise_groups (r : Raise) (s : State) : (s.raise r).groups = s.groups := by rw [State.raise_frame]
@[simp] theorem State.raise_deadlineList (r : Raise) (s : State) : (s.raise r).deadlineList = s.deadlineList := by
  rw [State.raise_frame]
@[simp] theorem State.raise_inputs (r : Raise) (s : State) : (s.raise r).inputs = s.inputs := by rw [State.raise_frame]
@[simp] theorem State.raise_fetch (r : Raise) (s : State) : (s.raise r).fetch = s.fetch := by rw [State.raise_frame]
@[simp] theorem State.raise_held (r : Raise) (s : State) : (s.raise r).held = s.held := by rw [State.raise_frame]

/-! ## The step -/

theorem step_cons {c : Instr} {rest : List Instr} {s : State} (h : s.pending = c :: rest) :
    step s = exec c (s.withPending rest) := by
  simp [step, h]

theorem step_nil {s : State} (h : s.pending = []) : step s = .next (refclkPeriod s) := by
  simp [step, h]

/-- A step that answers a next state is the idle period or one command. -/
theorem step_next {s t : State} (h : step s = .next t) :
    (s.pending = [] ∧ t = refclkPeriod s) ∨ ∃ c rest, s.pending = c :: rest ∧ exec c (s.withPending rest) = .next t := by
  cases hp : s.pending with
  | nil => rw [step_nil hp] at h; exact .inl ⟨rfl, (Host.Outcome.next.inj h).symm⟩
  | cons c rest => rw [step_cons hp] at h; exact .inr ⟨c, rest, rfl, h⟩

end Sys2Proof.Machine
end

