-- ==== Sys2Proof/Laws/Expiry.lean ====
section
/-! SUPPORT. What becomes of a slot and of the deadline list when an arming is set or an expiry is taken, said once for all
six processings. -/

namespace Sys2Proof.Machine

/-! ## The deadline list under a change of one arming -/

theorem Slot.deadline?_congr {a b : Slot} (h : a.arming = b.arming) : a.deadline? = b.deadline? := by
  simp only [Slot.deadline?, h]

theorem deadlineKey_congr {v w : Vector Slot 256} {n : SlotNumber} (h : v[n].arming = w[n].arming) :
    deadlineKey v n = deadlineKey w n := by
  simp only [deadlineKey, Slot.deadline?_congr h]

/-- The soundness of the list depends on the list and on the armings alone. -/
theorem DeadlineListSound.congr {s t : State} (hl : t.deadlineList = s.deadlineList)
    (ha : ∀ m : SlotNumber, t.slots[m].arming = s.slots[m].arming) (h : DeadlineListSound s) : DeadlineListSound t := by
  obtain ⟨order, members⟩ := h
  refine ⟨?_, fun m => ?_⟩
  · rw [hl]
    refine order.imp fun {a b} hab => ?_
    rwa [deadlineKey_congr (ha a), deadlineKey_congr (ha b)]
  · rw [hl, members m, Slot.deadline?_congr (ha m)]

/-- Setting an arming keeps the list sound. -/
theorem DeadlineListSound.putArming {s : State} (h : DeadlineListSound s) (n : SlotNumber) (a : Option Arming) :
    DeadlineListSound (s.putArming n a) := by
  obtain ⟨order, members⟩ := h
  have nodup : s.deadlineList.Nodup := order.imp fun {x y} hxy e => by rw [e] at hxy; exact Nat.lt_irrefl _ hxy
  have absent : n ∉ s.deadlineList.erase n := fun hm => ((nodup.mem_erase_iff).1 hm).1 rfl
  have other : ∀ m : SlotNumber, m ≠ n → (s.putArming n a).slots[m] = s.slots[m] :=
    fun m hm => State.putArming_slot_ne a s hm
  have kept : (s.deadlineList.erase n).Pairwise
      fun x y => deadlineKey (s.putArming n a).slots x < deadlineKey (s.putArming n a).slots y := by
    refine (order.sublist List.erase_sublist).imp_of_mem fun {x y} hx hy hxy => ?_
    have ex : x ≠ n := fun e => absent (e ▸ hx)
    have ey : y ≠ n := fun e => absent (e ▸ hy)
    rwa [deadlineKey_congr (w := s.slots) (congrArg Slot.arming (other x ex)),
      deadlineKey_congr (w := s.slots) (congrArg Slot.arming (other y ey))]
  have list : (s.putArming n a).deadlineList = relist (s.putArming n a).slots n s.deadlineList := rfl
  unfold relist at list
  by_cases hn : ((s.putArming n a).slots[n].deadline?).isSome = true
  · rw [if_pos hn] at list
    refine ⟨?_, fun m => ?_⟩
    · rw [list]
      exact insertDeadline_pairwise _ n _ kept fun m hm e => absent (deadlineKey_injective _ e ▸ hm)
    · rw [list, mem_insertDeadline]
      by_cases hm : m = n
      · subst hm; simp only [true_or, true_iff]; exact hn
      · rw [other m hm, nodup.mem_erase_iff, members m]; simp only [hm, false_or, ne_eq, not_false_eq_true, true_and]
  · rw [if_neg hn] at list
    refine ⟨by rw [list]; exact kept, fun m => ?_⟩
    rw [list]
    by_cases hm : m = n
    · subst hm; exact iff_of_false absent hn
    · rw [other m hm, nodup.mem_erase_iff, members m]; simp only [hm, ne_eq, not_false_eq_true, true_and]

/-! ## Due slots -/

theorem State.isDue_iff (n : SlotNumber) (s : State) :
    s.isDue n = true ↔ ∃ d, s.slots[n].deadline? = some d ∧ d ≤ s.time.now := by
  unfold State.isDue
  generalize s.slots[n].deadline? = o
  cases o <;> simp

/-! ## Taking an expiry -/

/-- A claim on slot `n` sets its arming to `after`: every other arming and device time are kept, and the list is brought up
to date for slot `n`. -/
structure Puts (n : SlotNumber) (s t : State) (after : Option Arming) : Prop where
  time : t.time = s.time
  list : t.deadlineList = (s.putArming n after).deadlineList
  arming : ∀ m : SlotNumber, t.slots[m].arming = (s.putArming n after).slots[m].arming

/-- A taking on slot `n` leaves it with the arming `after`: a sound one whose deadline, where it has one, lies ahead. -/
structure Leaves (n : SlotNumber) (s t : State) (after : Option Arming) : Prop extends Puts n s t after where
  sound : ∀ b, after = some b → b.positive ∧ b.phaseFits = true ∧ ∀ d, b.deadline? = some d → s.time.now < d

theorem Puts.deadlineListSound {n : SlotNumber} {s t : State} {after : Option Arming} (h : Puts n s t after)
    (hs : DeadlineListSound s) : DeadlineListSound t :=
  (hs.putArming n after).congr h.list h.arming

theorem Puts.arming_self {n : SlotNumber} {s t : State} {after : Option Arming} (h : Puts n s t after) :
    t.slots[n].arming = after := by rw [h.arming n, State.putArming_slot]

theorem Puts.arming_ne {n m : SlotNumber} {s t : State} {after : Option Arming} (h : Puts n s t after) (hm : m ≠ n) :
    t.slots[m].arming = s.slots[m].arming := by rw [h.arming m, State.putArming_slot_ne _ _ hm]

theorem Leaves.deadlineListSound {n : SlotNumber} {s t : State} {after : Option Arming} (h : Leaves n s t after)
    (hs : DeadlineListSound s) : DeadlineListSound t := h.toPuts.deadlineListSound hs

theorem Leaves.not_due {n : SlotNumber} {s t : State} {after : Option Arming} (h : Leaves n s t after) :
    t.isDue n = false := by
  rw [Bool.eq_false_iff, ne_eq, State.isDue_iff]
  rintro ⟨d, hd, hle⟩
  have ha : t.slots[n].arming = after := h.arming_self
  unfold Slot.deadline? at hd
  rw [ha] at hd
  cases after with
  | none => simp at hd
  | some b =>
    have := (h.sound b rfl).2.2 d (by simpa using hd)
    rw [h.time, BitVec.le_def] at hle
    rw [BitVec.lt_def] at this
    omega

/-- An action, an arming set and an event: the shape of the processings. -/
theorem puts_event (n : SlotNumber) (x : Option Action) (after : Option Arming) (s : State) (o : Occurrence)
    (makesPending : Bool) :
    Puts n s (((s.performAction x).putArming n after).recordEvent (.slot n) o makesPending) after where
  time := by simp only [State.recordEvent_time, State.putArming_time, State.performAction_time]
  list := by simp [State.putArming, State.putSlot]
  arming m := by
    rw [(State.recordEvent_slot _ _ _ _ m).1]
    simp [State.putArming, State.putSlot]

theorem leaves_recorded {n : SlotNumber} {x : Option Action} {after : Option Arming} {s : State} (a : Arming) (e : Event)
    (f : ReportFlags)
    (h : ∀ b, after = some b → b.positive ∧ b.phaseFits = true ∧ ∀ d, b.deadline? = some d → s.time.now < d) :
    Leaves n s (((s.performAction x).putArming n after).recordSlotEvent n a e f) after :=
  { puts_event n x after s _ _ with sound := h }

theorem Leaves.raise {n : SlotNumber} {s t : State} {after : Option Arming} (h : Leaves n s t after) (r : Raise) :
    Leaves n s (t.raise r) after where
  sound := h.sound
  time := by rw [State.raise_time, h.time]
  list := by rw [State.raise_deadlineList, h.list]
  arming m := by rw [State.raise_slots, h.arming m]

theorem later?_lt {t d : Time} {w : BitVec 32} (h : later? t w.toNat = some d) (hw : w ≠ 0) : t < d := by
  have := later?_spec h
  have : w.toNat ≠ 0 := fun e => hw (BitVec.eq_of_toNat_eq (by simpa using e))
  rw [BitVec.lt_def]
  omega

theorem waitAgain_sound {a b : Arming} {p : EdgePart} {now : Time} (ha : a.positive) (hp : a.part = .waitEdge p)
    (h : waitAgain a p now = some b) :
    b.positive ∧ b.phaseFits = true ∧ ∀ d, b.deadline? = some d → now < d := by
  obtain ⟨limit, -, h⟩ := Option.bind_eq_some_iff.1 h
  obtain ⟨t, ht, rfl⟩ := Option.map_eq_some_iff.1 h
  obtain ⟨action, intervals⟩ := ha
  rw [hp] at intervals
  refine ⟨⟨action, intervals⟩, rfl, fun d hd => ?_⟩
  simp only [Arming.deadline?] at hd
  subst hd
  unfold restartTimeout at ht
  cases hk : p.timeout with
  | none => simp [hk] at ht
  | some k =>
    rw [hk] at ht
    obtain ⟨e, he, hed⟩ := Option.map_eq_some_iff.1 ht
    obtain rfl := Option.some.inj hed
    exact later?_lt he fun h0 => intervals.1 (by rw [hk, h0])

theorem guardFaultStep_leaves (n : SlotNumber) (a : Arming) (g : GuardPart) (f : ReportFlags) (s : State) :
    Leaves n s (guardFaultStep n a g f s) none := by
  have h : Leaves n s (((s.performAction a.action).putArming n none).recordSlotEvent n a .guardFault
      (((s.actionOutcome a.action).flags.union { final := true }).union f)) none :=
    leaves_recorded a _ _ fun _ h => nomatch h
  unfold guardFaultStep
  dsimp only
  split
  · exact h.raise _
  · exact h

theorem guardWarnStep_leaves {n : SlotNumber} {a : Arming} {g : GuardPart} (late early : Bool) {s : State}
    (ha : a.positive) (hg : a.part = .guard g) : ∃ after, Leaves n s (guardWarnStep n a g late early s) after := by
  unfold guardWarnStep
  split
  · rename_i d hd
    refine ⟨_, leaves_recorded (x := none) a _ _ fun b hb => ?_⟩
    obtain rfl := Option.some.inj hb
    obtain ⟨action, intervals⟩ := ha
    rw [hg] at intervals
    refine ⟨⟨action, intervals⟩, rfl, fun e he => ?_⟩
    simp only [Arming.deadline?, Option.some.injEq] at he
    subst he
    exact later?_lt hd intervals.2
  · exact ⟨none, guardFaultStep_leaves n a g _ s⟩

theorem RepeatPart.applyStaged_period {a : Arming} {p : RepeatPart} (ha : a.positive) (hp : a.part = .repeating p) :
    p.applyStaged.period ≠ 0 := by
  have h := ha.2
  rw [hp] at h
  simp only [RepeatPart.applyStaged]
  cases hs : p.staged.bind (·.period) with
  | none => exact h.1
  | some x =>
    obtain ⟨c, hc, hx⟩ := Option.bind_eq_some_iff.1 hs
    exact fun h0 => (h.2 c hc).1 (by rw [hx, ← h0]; rfl)

theorem stagedAction_positive {a : Arming} {p : RepeatPart} (ha : a.positive) (hp : a.part = .repeating p) :
    ∀ x, stagedAction a p = some x → x.kind.positive := by
  intro x hx
  have h := ha.2
  rw [hp] at h
  unfold stagedAction at hx
  split at hx
  · exact ha.1 x hx
  · simp at hx
  · rename_i y hy
    obtain ⟨c, hc, hy⟩ := Option.bind_eq_some_iff.1 hy
    exact Option.some.inj hx ▸ (h.2 c hc).2 y hy

/-- The next deadline of a REPEAT slot that has expired lies ahead. -/
theorem RepeatPart.next?_lt {p : RepeatPart} {deadline now d : Time} (h : p.next? deadline now = some d)
    (hp : p.period ≠ 0) (hd : deadline ≤ now) : now < d := by
  unfold RepeatPart.next? at h
  split at h
  · rename_i hl
    have h' := later?_spec h
    simp only [RepeatPart.missed, hl] at h'
    have hpos : 0 < p.period.toNat := Nat.pos_of_ne_zero fun e => hp (BitVec.eq_of_toNat_eq (by simpa using e))
    have := Nat.lt_div_mul_add (a := now.toNat - deadline.toNat) hpos
    rw [BitVec.le_def] at hd
    rw [Nat.add_mul] at h'
    rw [BitVec.lt_def]
    omega
  · exact later?_lt h hp

theorem repeatAfter_sound {a b : Arming} {p : RepeatPart} {d now : Time} (ha : a.positive) (hp : a.part = .repeating p)
    (hd : a.phase = .armed d) (hle : d ≤ now) (h : repeatAfter a p now = some b) :
    b.positive ∧ b.phaseFits = true ∧ ∀ e, b.deadline? = some e → now < e := by
  have hdl : (a.deadline?).getD now = d := by simp [Arming.deadline?, hd]
  unfold repeatAfter at h
  dsimp only at h
  rw [hdl] at h
  obtain ⟨e, he, h⟩ := Option.bind_eq_some_iff.1 h
  obtain ⟨limit, -, rfl⟩ := Option.map_eq_some_iff.1 h
  have hper := RepeatPart.applyStaged_period ha hp
  refine ⟨⟨stagedAction_positive ha hp, hper, fun c hc => by simp [RepeatPart.applyStaged] at hc⟩, rfl, fun x hx => ?_⟩
  simp only [Arming.deadline?, Option.some.injEq] at hx
  subst hx
  exact RepeatPart.next?_lt he hper hle

/-- Taking the expiry of a due slot leaves it IDLE or with a deadline ahead, or WAITING without one (R50 to R60, R86, R87,
R92 to R94). -/
theorem takeExpiry_leaves {n : SlotNumber} {a : Arming} {d : Time} {s : State} (h : s.slots[n].arming = some a)
    (hd : a.deadline? = some d) (hle : d ≤ s.time.now) (hp : a.positive) (hf : a.phaseFits = true) :
    ∃ after, Leaves n s (takeExpiry n s) after := by
  unfold takeExpiry
  rw [h]
  cases hpart : a.part <;> cases hphase : a.phase <;>
    simp only [Arming.phaseFits, Arming.deadline?, hpart, hphase, Option.some.injEq, reduceCtorEq] at hf hd <;>
    simp only [Arming.expiryKind?, hpart, hphase]
  case once.armed => exact ⟨none, leaves_recorded a _ _ fun _ h => nomatch h⟩
  case repeating.armed p d' =>
    subst hd
    simp only [repeatExpiry, hpart]
    exact ⟨_, leaves_recorded a _ _ fun b hb => repeatAfter_sound hp hpart hphase hle hb⟩
  case guard.armed g d' =>
    by_cases hs : g.stage = .normal
    · simp only [hs, if_true, guardWarnExpiry, hpart]
      exact guardWarnStep_leaves _ _ hp hpart
    · simp only [hs, if_false, guardFaultExpiry, hpart]
      exact ⟨none, guardFaultStep_leaves n a g _ s⟩
  case waitEdge.armed p d' =>
    simp only [afterEdgeExpiry, hpart]
    exact ⟨_, leaves_recorded a _ _ fun b hb => waitAgain_sound hp hpart hb⟩
  case waitEdge.waiting p t =>
    subst hd
    exact ⟨none, leaves_recorded (x := none) a _ _ fun _ h => nomatch h⟩

/-- A slot placed in the list stays as it is while its deadline lies ahead, and is otherwise left as a taking leaves it
(R46). -/
theorem takeAtInsertion_cases {n : SlotNumber} {s : State}
    (h : ∀ a, s.slots[n].arming = some a → a.positive ∧ a.phaseFits = true) :
    (s.isDue n = false ∧ takeAtInsertion n s = s) ∨ ∃ after, Leaves n s (takeAtInsertion n s) after := by
  unfold takeAtInsertion
  by_cases hd : s.isDue n = true
  · rw [if_pos hd]
    obtain ⟨d, hd, hle⟩ := (State.isDue_iff n s).1 hd
    obtain ⟨a, ha, hd⟩ := Option.bind_eq_some_iff.1 hd
    exact .inr (takeExpiry_leaves ha hd hle (h a ha).1 (h a ha).2)
  · rw [if_neg hd]
    exact .inl ⟨Bool.eq_false_iff.2 hd, rfl⟩

/-- The expiry of a slot that waits for edges changes slots, the deadline list, lines and the report queue with the note of
the write in flight; nothing else (R86, R87). -/
theorem takeExpiry_waitEdge_frame {n : SlotNumber} {s : State}
    (h : ∀ a, s.slots[n].arming = some a → ∃ p, a.part = .waitEdge p) :
    takeExpiry n s =
      { s with
        slots := (takeExpiry n s).slots
        deadlineList := (takeExpiry n s).deadlineList
        lines := (takeExpiry n s).lines
        writer := (takeExpiry n s).writer } := by
  cases ha : s.slots[n].arming with
  | none => simp only [takeExpiry, ha]
  | some a =>
    obtain ⟨p, hp⟩ := h a ha
    cases hph : a.phase with
    | armed d =>
      simp only [takeExpiry, ha, Arming.expiryKind?, hp, hph, afterEdgeExpiry, State.recordSlotEvent]
      rw [State.recordEvent_frame, State.performAction_frame]
      rfl
    | waiting t =>
      cases t with
      | none => simp only [takeExpiry, ha, Arming.expiryKind?, hp, hph]
      | some d =>
        simp only [takeExpiry, ha, Arming.expiryKind?, hp, hph, timeoutExpiry, State.recordSlotEvent]
        rw [State.recordEvent_frame]
        rfl
    | held o r => simp only [takeExpiry, ha, Arming.expiryKind?, hp, hph]

end Sys2Proof.Machine
end

