-- ==== Sys2Proof/Laws/Inputs.lean ====
section
/-! SUPPORT. What the parts of an edge can do, said once: one offer, the acceptance, the offers of a share, the trip-level
status. -/

namespace Sys2Proof.Machine

/-! ## One offer -/

/-- An offer passes its slot by, or the slot captures the edge, or starts its after-edge delay; a deadline so placed that
has come is taken (R46, R82, R84, R85). -/
theorem offerEdge_cases (line : InputNumber) (e : EdgeUnderWay) (n : SlotNumber) (s : State) :
    ((∀ a, s.slots[n].arming = some a → a.takesEdge? line e.level = none) ∧ offerEdge line e n s = s)
      ∨ ∃ a p, s.slots[n].arming = some a ∧ a.takesEdge? line e.level = some p
          ∧ ((p.delay = none ∧ offerEdge line e n s = takeAtInsertion n (captureEdge n a p e.time s))
            ∨ ∃ d, p.delay = some d ∧ offerEdge line e n s = takeAtInsertion n (startDelay n a p d e.time s)) := by
  unfold offerEdge
  cases ha : s.slots[n].arming with
  | none => exact .inl ⟨by simp, rfl⟩
  | some a =>
    dsimp only
    cases ht : a.takesEdge? line e.level with
    | none => exact .inl ⟨fun b hb => Option.some.inj hb ▸ ht, rfl⟩
    | some p =>
      refine .inr ⟨a, p, rfl, ht, ?_⟩
      dsimp only
      cases hd : p.delay with
      | none => exact .inl ⟨rfl, rfl⟩
      | some d => exact .inr ⟨d, rfl, rfl⟩

/-- The slot that takes an edge is one that waits for edges. -/
theorem Arming.takesEdge?_part {line : InputNumber} {level : Bool} {a : Arming} {p : EdgePart}
    (h : a.takesEdge? line level = some p) : a.part = .waitEdge p := by
  unfold Arming.takesEdge? at h
  split at h
  · rename_i hq
    split at h
    · exact hq.trans (by rw [Option.some.inj h])
    · simp at h
  · simp at h

/-- What a capture leaves still waits for edges. -/
theorem waitAgain_part {a b : Arming} {p : EdgePart} {now : Time} (h : waitAgain a p now = some b) :
    ∃ q, b.part = .waitEdge q := by
  obtain ⟨limit, -, h⟩ := Option.bind_eq_some_iff.1 h
  obtain ⟨t, -, rfl⟩ := Option.map_eq_some_iff.1 h
  exact ⟨_, rfl⟩

/-- A delay starts with an arming set, and with a CAPTURE after it where its deadline is out of range (R85, R89). -/
theorem startDelay_cases (n : SlotNumber) (a : Arming) (p : EdgePart) (d : BitVec 32) (t : Time) (s : State) :
    (∃ x, later? t d.toNat = some x ∧ startDelay n a p d t s = s.putArming n (some
        { a with part := .waitEdge { p with lastCapture := some t }, phase := .armed x }))
      ∨ startDelay n a p d t s = (s.putArming n none).recordCapture n a t { final := true } := by
  unfold startDelay
  cases later? t d.toNat with
  | some e => exact .inl ⟨_, rfl, rfl⟩
  | none => exact .inr rfl

/-- Before a deadline that has come is taken, an offer that is taken sets the slot's arming to one that waits for edges, or
ends it, and changes slots, the deadline list, lines and the report queue with the note of the write in flight alone. -/
theorem offerEdge_puts (line : InputNumber) (e : EdgeUnderWay) (n : SlotNumber) (s : State) :
    offerEdge line e n s = s
      ∨ ∃ t after, Puts n s t after ∧ offerEdge line e n s = takeAtInsertion n t
          ∧ t = { s with slots := t.slots, deadlineList := t.deadlineList, lines := t.lines, writer := t.writer }
          ∧ (∀ b, after = some b → ∃ p, b.part = .waitEdge p)
          ∧ (IntervalsSound s → ∀ b, after = some b → b.positive ∧ b.phaseFits = true) := by
  rcases offerEdge_cases line e n s with ⟨-, h⟩ | ⟨a, p, ha, hp, ⟨-, h⟩ | ⟨d, hd, h⟩⟩
  · exact .inl h
  · have part := Arming.takesEdge?_part hp
    refine .inr ⟨captureEdge n a p e.time s, _, puts_event n a.action _ s _ _, h, ?_, fun b hb => waitAgain_part hb,
      fun hs b hb => ?_⟩
    · unfold captureEdge State.recordCapture
      dsimp only
      rw [State.recordEvent_frame, State.performAction_frame]
      rfl
    · have positive := hs n a ha
      have intervals := positive.2
      rw [part] at intervals
      have := waitAgain_sound (a := { a with part := .waitEdge { p with lastCapture := some e.time } })
        ⟨positive.1, intervals⟩ rfl hb
      exact ⟨this.1, this.2.1⟩
  · have part := Arming.takesEdge?_part hp
    rcases startDelay_cases n a p d e.time s with ⟨x, -, hx⟩ | hx
    · refine .inr ⟨_, some { a with part := .waitEdge { p with lastCapture := some e.time }, phase := .armed x },
        ⟨by rw [hx]; rfl, by rw [hx], fun m => by rw [hx]⟩, h, by rw [hx]; rfl, fun b hb => ?_, fun hs b hb => ?_⟩
      · exact ⟨_, (congrArg Arming.part (Option.some.inj hb)).symm⟩
      · have positive := hs n a ha
        have intervals := positive.2
        rw [part] at intervals
        exact Option.some.inj hb ▸ ⟨⟨positive.1, intervals⟩, rfl⟩
    · refine .inr ⟨_, none, ?_, h, ?_, by simp, by simp⟩
      · rw [hx]; exact puts_event n none none s _ _
      · rw [hx]
        unfold State.recordCapture
        rw [State.recordEvent_frame]
        rfl

/-- An offer changes slots, the deadline list, lines and the report queue with the note of the write in flight; nothing
else. -/
theorem offerEdge_frame (line : InputNumber) (e : EdgeUnderWay) (n : SlotNumber) (s : State) :
    offerEdge line e n s =
      { s with
        slots := (offerEdge line e n s).slots
        deadlineList := (offerEdge line e n s).deadlineList
        lines := (offerEdge line e n s).lines
        writer := (offerEdge line e n s).writer } := by
  rcases offerEdge_puts line e n s with h | ⟨t, after, put, h, frame, part, -⟩
  · rw [h]
  · rw [h]
    unfold takeAtInsertion
    split
    · rw [takeExpiry_waitEdge_frame fun b hb => part b (put.arming_self.symm.trans hb), frame]
    · exact frame

@[simp] theorem offerEdge_inputs (line : InputNumber) (e : EdgeUnderWay) (n : SlotNumber) (s : State) :
    (offerEdge line e n s).inputs = s.inputs := by rw [offerEdge_frame]
@[simp] theorem offerEdge_time (line : InputNumber) (e : EdgeUnderWay) (n : SlotNumber) (s : State) :
    (offerEdge line e n s).time = s.time := by rw [offerEdge_frame]
@[simp] theorem offerEdge_trip (line : InputNumber) (e : EdgeUnderWay) (n : SlotNumber) (s : State) :
    (offerEdge line e n s).trip = s.trip := by rw [offerEdge_frame]
@[simp] theorem offerEdge_control (line : InputNumber) (e : EdgeUnderWay) (n : SlotNumber) (s : State) :
    (offerEdge line e n s).control = s.control := by rw [offerEdge_frame]

/-- An offer keeps the deadline list sound and every other arming, and a slot that takes the edge is left IDLE, WAITING
without a deadline, or with a deadline ahead (R44, R46, R84, R85, R89). -/
theorem offerEdge_sound {line : InputNumber} {e : EdgeUnderWay} {n : SlotNumber} {s : State} (hs : IntervalsSound s)
    (hl : DeadlineListSound s) :
    DeadlineListSound (offerEdge line e n s)
      ∧ (∀ m : SlotNumber, m ≠ n → (offerEdge line e n s).slots[m].arming = s.slots[m].arming)
      ∧ (offerEdge line e n s = s ∨ (offerEdge line e n s).isDue n = false) := by
  rcases offerEdge_puts line e n s with h | ⟨t, after, put, h, -, -, sound⟩
  · rw [h]; exact ⟨hl, fun _ _ => rfl, .inl rfl⟩
  · have ht := put.deadlineListSound hl
    rw [h]
    rcases takeAtInsertion_cases (n := n) (s := t) fun a ha => sound hs a (put.arming_self.symm.trans ha) with
      ⟨hd, h⟩ | ⟨after', leaves⟩
    · rw [h]
      exact ⟨ht, fun m hm => put.arming_ne hm, .inr hd⟩
    · exact ⟨leaves.deadlineListSound ht, fun m hm => (leaves.arming_ne hm).trans (put.arming_ne hm),
        .inr leaves.not_due⟩

/-! ## The acceptance, the offers of a share and the status -/

/-- What every step of a fold keeps, the fold keeps. -/
theorem foldl_keeps {α β : Type} (view : State → β) (f : State → α → State) (hf : ∀ s a, view (f s a) = view s) (l : List α)
    (s : State) : view (l.foldl f s) = view s := by
  induction l generalizing s with
  | nil => rfl
  | cons a l ih => rw [List.foldl_cons, ih, hf]

@[simp] theorem offerRange_inputs (line : InputNumber) (e : EdgeUnderWay) (bound : Fin 257) (s : State) :
    (offerRange line e bound s).inputs = s.inputs :=
  foldl_keeps State.inputs _ (fun _ _ => offerEdge_inputs _ _ _ _) _ s
@[simp] theorem offerRange_time (line : InputNumber) (e : EdgeUnderWay) (bound : Fin 257) (s : State) :
    (offerRange line e bound s).time = s.time :=
  foldl_keeps State.time _ (fun _ _ => offerEdge_time _ _ _ _) _ s
@[simp] theorem offerRange_trip (line : InputNumber) (e : EdgeUnderWay) (bound : Fin 257) (s : State) :
    (offerRange line e bound s).trip = s.trip :=
  foldl_keeps State.trip _ (fun _ _ => offerEdge_trip _ _ _ _) _ s
@[simp] theorem offersOfEdge_time (n : InputNumber) (bound : Fin 257) (s : State) :
    (offersOfEdge n bound s).time = s.time := by
  unfold offersOfEdge
  cases s.inputs[n].edge with
  | none => rfl
  | some e => exact offerRange_time _ _ _ _

@[simp] theorem State.putInput_input (n : InputNumber) (l : InputLine) (s : State) : (s.putInput n l).inputs[n] = l := by
  simp [State.putInput, State.withInputs]

/-- An EDGE goes on with the edge under way, accepts a candidate at its full count, or finds neither (R76, R77; log 6). -/
theorem beginEdge_cases (n : InputNumber) (s : State) :
    (∃ e, s.inputs[n].edge = some e ∧ beginEdge n s = s)
      ∨ (s.inputs[n].edge = none ∧ s.inputs[n].acceptable = none ∧ beginEdge n s = s)
      ∨ ∃ level, s.inputs[n].edge = none ∧ s.inputs[n].acceptable = some level
          ∧ beginEdge n s = s.putInput n { s.inputs[n] with
              qualified := some level, candidate := none
              edge := some { level := level, time := s.time.now, next := 0, statusDue := true } } := by
  unfold beginEdge
  dsimp only
  cases he : s.inputs[n].edge with
  | some e => exact .inl ⟨e, rfl, rfl⟩
  | none =>
    cases ha : s.inputs[n].acceptable with
    | none => exact .inr (.inl ⟨rfl, rfl, rfl⟩)
    | some level => exact .inr (.inr ⟨level, rfl, rfl, rfl⟩)

/-- A share of the offers moves the mark of the edge to its bound and changes nothing else of the input lines (R82). -/
theorem offersOfEdge_inputs {n : InputNumber} {bound : Fin 257} {s : State} {e : EdgeUnderWay}
    (h : s.inputs[n].edge = some e) :
    (offersOfEdge n bound s).inputs = (s.putEdge n { e with next := max e.next bound }).inputs := by
  unfold offersOfEdge
  rw [h]
  exact offerRange_inputs _ _ _ _

/-- The trip-level status takes an edge at most once (R77, R78). -/
theorem statusOfEdge_cases (n : InputNumber) (s : State) :
    (statusOfEdge n s = s ∧ ∀ e, s.inputs[n].edge = some e → e.statusDue = false)
      ∨ ∃ e, s.inputs[n].edge = some e ∧ e.statusDue = true
          ∧ statusOfEdge n s = (s.putEdge n { e with statusDue := false }).reevaluate n := by
  unfold statusOfEdge
  cases he : s.inputs[n].edge with
  | none => exact .inl ⟨rfl, by simp⟩
  | some e =>
    dsimp only
    by_cases hs : e.statusDue = true
    · exact .inr ⟨e, rfl, hs, by rw [if_pos hs]⟩
    · exact .inl ⟨by rw [if_neg hs], fun f hf => Option.some.inj hf ▸ Bool.eq_false_iff.2 hs⟩

end Sys2Proof.Machine
end

