-- ==== Sys2Proof/Laws/Layouts.lean ====
section
/-! SUPPORT. The bytes of a little-endian field, put together and taken apart (R165). -/

namespace Sys2Proof

theorem bytes16 (x : BitVec 16) : byteOf x 1 ++ byteOf x 0 = x := by
  apply BitVec.eq_of_getLsbD_eq; intro i hi
  simp only [byteOf, BitVec.getLsbD_append, BitVec.getLsbD_extractLsb']
  interval_cases i <;> simp

theorem bytes32 (x : BitVec 32) : byteOf x 3 ++ byteOf x 2 ++ byteOf x 1 ++ byteOf x 0 = x := by
  apply BitVec.eq_of_getLsbD_eq; intro i hi
  simp only [byteOf, BitVec.getLsbD_append, BitVec.getLsbD_extractLsb']
  interval_cases i <;> simp

theorem bytes64 (x : BitVec 64) :
    byteOf x 7 ++ byteOf x 6 ++ byteOf x 5 ++ byteOf x 4 ++ byteOf x 3 ++ byteOf x 2 ++ byteOf x 1 ++ byteOf x 0
      = x := by
  apply BitVec.eq_of_getLsbD_eq; intro i hi
  simp only [byteOf, BitVec.getLsbD_append, BitVec.getLsbD_extractLsb']
  interval_cases i <;> simp

/-- The lowest byte of a field with a byte below the rest. -/
theorem byteOf_append_low {w : Nat} (a : BitVec w) (b : Byte) : byteOf (a ++ b) 0 = b := by
  apply BitVec.eq_of_getLsbD_eq; intro i hi
  simp only [byteOf, BitVec.getLsbD_append, BitVec.getLsbD_extractLsb', Nat.mul_zero, Nat.zero_add, hi]
  simp

/-- A higher byte of a field with a byte below the rest is a byte of the rest. -/
theorem byteOf_append_high {w : Nat} (a : BitVec w) (b : Byte) (k : Nat) : byteOf (a ++ b) (k + 1) = byteOf a k := by
  apply BitVec.eq_of_getLsbD_eq; intro i hi
  simp only [byteOf, BitVec.getLsbD_append, BitVec.getLsbD_extractLsb', hi]
  have h : ¬ 8 * (k + 1) + i < 8 := by omega
  have e : 8 * (k + 1) + i - 8 = 8 * k + i := by omega
  simp [h, e]

theorem byteOf_byte (b : Byte) : byteOf b 0 = b := by
  apply BitVec.eq_of_getLsbD_eq; intro i hi
  simp [byteOf, hi]

end Sys2Proof
end

