-- ==== Sys2Proof/Laws/Requests.lean ====
section
/-! SUPPORT. What the request engine and the expiry unit do, said once: the arrival of a record, validation read off the
code tables, and the expiry rows. -/

namespace Sys2Proof.Machine

/-! ## The arrival of a record -/

theorem State.arrive_idle {s : State} (h : s.fetch.inFlight = none) (take : State → State) : s.arrive take = s := by
  simp [State.arrive, h]

theorem State.arrive_withdrawn {s : State} {i : Nat} (h : s.fetch.inFlight = some i) (ht : s.fetch.tail = s.fetch.head)
    (take : State → State) : s.arrive take = (s.withFetch { s.fetch with inFlight := none }).settlePause := by
  simp [State.arrive, h, ht]

theorem State.arrive_taken {s : State} {i : Nat} (h : s.fetch.inFlight = some i) (ht : s.fetch.tail ≠ s.fetch.head)
    (take : State → State) :
    s.arrive take =
      take (s.withFetch { s.fetch with inFlight := none, head := (s.fetch.head + 1) % s.fetch.entries }) := by
  simp [State.arrive, h, ht]

/-- PAUSING settles into PAUSED exactly when nothing is left of the fetch and the response. -/
theorem State.settlePause_cases (s : State) :
    (s.control.state = .pausing ∧ s.fetch.inFlight = none ∧ s.held = none ∧ s.settlePause = s.withState .paused)
      ∨ (¬ (s.control.state = .pausing ∧ s.fetch.inFlight = none ∧ s.held = none) ∧ s.settlePause = s) := by
  unfold State.settlePause
  by_cases h : s.control.state = .pausing ∧ s.fetch.inFlight = none ∧ s.held = none
  · exact .inl ⟨h.1, h.2.1, h.2.2, if_pos h⟩
  · exact .inr ⟨h, if_neg h⟩

theorem engineTakes_refused {k : RequestKind} {r : Request} {s : State} {status : Status} (h : refusal? k r s = some status)
    (owner : Request → State → State × Answer) :
    engineTakes k r owner s = s.holdResponse .ordinary r (.refusal status) := by
  simp [engineTakes, h]

theorem engineTakes_valid {k : RequestKind} {r : Request} {s : State} (h : refusal? k r s = none)
    (owner : Request → State → State × Answer) :
    engineTakes k r owner s = (owner r s).1.holdResponse (responseKind k (owner r s).2) r (owner r s).2 := by
  simp [engineTakes, h]

theorem State.holdResponse_frame (k : ResponseKind) (r : Request) (a : Answer) (s : State) :
    s.holdResponse k r a = { s with held := (s.holdResponse k r a).held } := rfl

theorem ofCode?_code (k : RequestKind) : RequestKind.ofCode? k.code = some k := by
  cases k <;> rfl

theorem ofCode?_eq_none {c : Byte} (h : 16 < c.toNat) : RequestKind.ofCode? c = none := by
  simp [RequestKind.ofCode?, RequestKind.all]
  omega

/-! ## The code tables of request fields -/

theorem Mode.ofCode?_cases (b : Byte) :
    (b.toNat = 1 ∧ Mode.ofCode? b = some .once) ∨ (b.toNat = 2 ∧ Mode.ofCode? b = some .repeating)
      ∨ (b.toNat = 3 ∧ Mode.ofCode? b = some .guard) ∨ (b.toNat = 4 ∧ Mode.ofCode? b = some .waitEdge)
      ∨ ((b.toNat = 0 ∨ 4 < b.toNat) ∧ Mode.ofCode? b = none) := by
  unfold Mode.ofCode?
  split <;> simp_all
  omega

theorem ReportPolicy.ofCode?_cases (b : Byte) :
    (b.toNat = 0 ∧ ReportPolicy.ofCode? b = some .every) ∨ (b.toNat = 1 ∧ ReportPolicy.ofCode? b = some .final)
      ∨ (b.toNat = 2 ∧ ReportPolicy.ofCode? b = some .none) ∨ (2 < b.toNat ∧ ReportPolicy.ofCode? b = Option.none) := by
  unfold ReportPolicy.ofCode?
  split <;> simp_all
  omega

theorem TripLevel.ofCode?_cases (b : Byte) :
    (b.toNat = 0 ∧ TripLevel.ofCode? b = some .none) ∨ (b.toNat = 1 ∧ TripLevel.ofCode? b = some .high)
      ∨ (b.toNat = 2 ∧ TripLevel.ofCode? b = some .low) ∨ (2 < b.toNat ∧ TripLevel.ofCode? b = Option.none) := by
  unfold TripLevel.ofCode?
  split <;> simp_all
  omega

theorem LatePolicy.ofCode?_cases (b : Byte) :
    (b.toNat = 0 ∧ LatePolicy.ofCode? b = some .onGrid) ∨ (b.toNat = 1 ∧ LatePolicy.ofCode? b = some .restart)
      ∨ (1 < b.toNat ∧ LatePolicy.ofCode? b = none) := by
  unfold LatePolicy.ofCode?
  split <;> simp_all
  omega

theorem EdgeSelect.ofCode?_cases (b : Byte) :
    (b.toNat = 1 ∧ EdgeSelect.ofCode? b = some .rise) ∨ (b.toNat = 2 ∧ EdgeSelect.ofCode? b = some .fall)
      ∨ (b.toNat = 3 ∧ EdgeSelect.ofCode? b = some .any)
      ∨ ((b.toNat = 0 ∨ 3 < b.toNat) ∧ EdgeSelect.ofCode? b = none) := by
  unfold EdgeSelect.ofCode?
  split <;> simp_all
  omega

theorem slot?_eq_some {r : Request} {n : SlotNumber} (h : r.slot.toNat = n.val) : slot? r = some n := by
  simp [slot?, h]

theorem slot?_eq_none {r : Request} (h : 256 ≤ r.slot.toNat) : slot? r = none := by
  simp [slot?, h]

theorem line?_eq_some {b : Byte} {n : LineNumber} (h : b.toNat = n.val) : line? b = some n := by
  simp [line?, h]

theorem input?_eq_some {b : Byte} {n : InputNumber} (h : b.toNat = n.val) : input? b = some n := by
  simp [input?, h]

theorem group?_eq_some {b : Byte} {g : GroupNumber} (h : b.toNat = g.val) : group? b = some g := by
  simp [group?, h]

/-- A flag outside a mask is what makes the mask test of step 2 fail. -/
theorem flagsOutside_ne_zero (f m : BitVec 16) :
    (f &&& ~~~ m) ≠ 0 ↔ ∃ b, b < 16 ∧ f.getLsbD b = true ∧ m.getLsbD b = false := by
  constructor
  · intro h
    by_contra hc
    apply h
    apply BitVec.eq_of_getLsbD_eq
    intro i hi
    push Not at hc
    have := hc i hi
    rw [BitVec.getLsbD_and, BitVec.getLsbD_not]
    cases h1 : f.getLsbD i <;> simp_all
  · rintro ⟨b, hb, h1, h2⟩ h
    have := congrArg (fun x => x.getLsbD b) h
    rw [BitVec.getLsbD_and, BitVec.getLsbD_not, h1, h2] at this
    simp [hb] at this

/-- Validation passes exactly when none of steps 2 to 5 fails. -/
theorem refusal?_eq_none (k : RequestKind) (r : Request) (s : State) :
    refusal? k r s = none ↔
      step2Fails k r = false ∧ (k.namesSlot && (slot? r).isNone) = false ∧ step4Fails k r = false
        ∧ step5Fails k r s = false := by
  unfold refusal?
  cases step2Fails k r <;> cases (k.namesSlot && (slot? r).isNone) <;> cases step4Fails k r <;>
    cases step5Fails k r s <;> simp

/-! ## The expiry rows -/

/-- An expiry row takes the processing of its kind, or changes nothing. -/
theorem whenExpires_cases (n : SlotNumber) (k : ExpiryKind) (p : Arming → Bool → State → State) (s : State) :
    (∃ a, s.slots[n].arming = some a ∧ a.expiryKind? = some k ∧ s.expiresNext n = true
        ∧ whenExpires n k p s = p a (isLate a s.time.now) s)
      ∨ ((¬ ∃ a, s.slots[n].arming = some a ∧ a.expiryKind? = some k ∧ s.expiresNext n = true)
        ∧ whenExpires n k p s = s) := by
  unfold whenExpires
  cases h : s.slots[n].arming with
  | none => exact .inr ⟨by simp, rfl⟩
  | some a =>
    by_cases hk : a.expiryKind? = some k ∧ s.expiresNext n = true
    · exact .inl ⟨a, rfl, hk.1, hk.2, if_pos hk⟩
    · refine .inr ⟨?_, if_neg hk⟩
      rintro ⟨b, hb, h1, h2⟩
      exact hk (by rw [Option.some.inj hb]; exact ⟨h1, h2⟩)

theorem State.expiresNext_iff (n : SlotNumber) (s : State) :
    s.expiresNext n = true ↔ s.deadlineList.head? = some n ∧ ∃ d, s.slots[n].deadline? = some d ∧ d ≤ s.time.now := by
  unfold State.expiresNext State.isDue
  cases h : s.slots[n].deadline? <;> simp

/-- A limit counted down: 0 stays unbounded, a spent limit ends the arming. -/
theorem countLimit_cases (limit : BitVec 16) (n : Nat) :
    (limit = 0 ∧ countLimit limit n = some 0)
      ∨ (limit ≠ 0 ∧ n < limit.toNat ∧ countLimit limit n = some (BitVec.ofNat 16 (limit.toNat - n)))
      ∨ (limit ≠ 0 ∧ limit.toNat ≤ n ∧ countLimit limit n = none) := by
  unfold countLimit
  by_cases h : limit = 0
  · exact .inl ⟨h, if_pos h⟩
  · by_cases hn : n < limit.toNat
    · exact .inr (.inl ⟨h, hn, by rw [if_neg h, if_pos hn]⟩)
    · exact .inr (.inr ⟨h, by omega, by rw [if_neg h, if_neg hn]⟩)

/-- The flags an action's outcome gives its event. -/
theorem ActionOutcome.flags_eq (o : ActionOutcome) :
    o.flags = { dropped := o = .dropped, suppressed := o = .suppressed } := by
  cases o <;> simp [ActionOutcome.flags]

end Sys2Proof.Machine
end

