-- ==== Sys2Proof/Tests/Slice0.lean ====
section
/-! SUPPORT. Tests: the ill-formed term, the layouts read off the tables of chapter 11, single steps of the specification's
worked examples, and for each statement with hypotheses a state and operands that meet them. -/

namespace Sys2Proof.Tests
open Sys2Proof.Machine Sys2Proof.Claims

set_option Elab.async false

/-! ## Helpers -/

/-- The state after a command. -/
def run (c : Instr) (s : State) : State :=
  match exec c s with
  | .next t => t
  | .fault _ => s
  | .refused _ => s

/-- A record body of zeros. -/
def blank : Request :=
  { mode := 0, flags := 0, requestId := 0, slot := 0, timeValue := 0, period := 0, grace := 0, delay := 0, pulseWidth := 0
    limit := 0, expectedGen := 0, groupMask := 0, group := 0, outputLine := 0, actionKind := 0, inputLine := 0
    edgeSelect := 0, reportPolicy := 0, latePolicy := 0, filterLength := 0, tripLevel := 0, reserved47 := 0, tag := 0
    reserved56 := 0 }

/-- An output line that is enabled, at level 0. -/
def lowLine (participates : Bool) : OutputLine :=
  { drive := some { level := false, pulseEnd := none }, defaultLevel := false, safeLevel := true
    participates := participates }

/-- RUNNING at device time 1,000 with a record on its way: OUT0 to OUT7 enabled, OUT7 participating in trip, every input
sampled at 0 with a filter of 2 ticks. -/
def busy : State :=
  { State.reset with
    time := { divider := 100, tickLength := 100, phase := 7, now := 1000, counting := .counting }
    lines := Vector.ofFn fun n : LineNumber => if n.val < 8 then lowLine (n.val == 7) else .reset
    configurationPresent := true
    inputs := Vector.replicate 8
      { raw := some false, qualified := some false, candidate := none, edge := none, filter := 2, tripLevel := .none, active := false }
    fetch := { FetchUnit.reset with tail := 15, inFlight := some 0 }
    control := { ControlBlock.reset with state := .running } }

/-- An arming of group 1 with a set of OUT2, anchored REL. -/
def arming (part : ModePart) (phase : Phase) : Arming :=
  { anchoring := .rel, action := some { line := 2, kind := .set }, policy := .every, group := 1, tag := 0xAB
    part := part, phase := phase }

def repeatPart : RepeatPart := { period := 100, limit := 5, latePolicy := .onGrid, staged := none }
def guardPart : GuardPart :=
  { period := 1000, stage := .normal, grace := 200, window := 300, lastRenew := 900, tripOnFault := true }
def edgePart : EdgePart :=
  { input := 5, select := .fall, timeout := some 50, delay := none, lastCapture := none, limit := 0 }

/-- Slot 14 holds an arming. -/
def holding (a : Arming) (s : State) : State := s.putArming 14 (some a)

/-- Device time set aside from everything else. -/
def atTime (now : Time) (s : State) : State := { s with time := { s.time with now := now } }

/-- IN5 with a candidate. -/
def withCandidate (qualified level : Bool) (count : Nat) (s : State) : State :=
  let l : InputLine :=
    { raw := some level, qualified := some qualified, candidate := some { level := level, count := count }
      edge := none, filter := 2, tripLevel := .none, active := false }
  { s with inputs := s.inputs.set 5 l }

/-- The device tripped by FORCE_TRIP at 900. -/
def tripped (inputCauses : BitVec 8) (s : State) : State :=
  { s with trip :=
      { state := .tripped, inputCauses := inputCauses, guardCause := false, faultCause := false, forcedCause := true
        record := { kind := .forced, index := 0, time := 900 } } }

/-- A completion write in flight. -/
def writing (source : WriteSource) (s : State) : State :=
  { s with writer := { s.writer with
      inFlight := some { source := source, index := 0, sequence := 1, address := 0, contents := Vector.replicate 32 0
                         reportsWaited := true, eventNoted := false, cancelNoted := false } } }

/-- A held response. -/
def answering (kind : ResponseKind) (s : State) : State :=
  s.holdResponse kind blank (.plain .ok 0 0)

/-- The block of 12.1. -/
def block : ConfigBlock :=
  { format := 1, submissionLog2 := 4, completionLog2 := 4, divider := 100, submissionBase := 0x10000
    completionBase := 0x20000, enableMask := 1, defaultMask := 0, safeMask := 0, participateMask := 0, threshold := 1
    options := 0, moderation := 0, reserved := Vector.replicate 28 0 }

/-! ## Well-formed commands -/

theorem test_wellFormed_refuses_assigned_codes :
    (Instr.controlWriteUnassignedCode 1).wellFormed = false ∧ (Instr.controlWriteUnassignedCode 4).wellFormed = false
      ∧ (Instr.controlWriteUnassignedCode 0).wellFormed = true ∧ (Instr.controlWriteUnassignedCode 5).wellFormed = true := by
  decide

/-! ## Layouts, from the tables of chapter 11 -/

/-- The report record of 11.8, byte for byte. -/
theorem test_report_record_bytes :
    encodeCompletion (reportRecord (.slot 12)
        { event := some .expiry, time := 5000, tag := 0xC0C, count := 2, flags := {} } 9 11 23)
      = #v[2, 1, 0, 0, 23, 0, 0, 0, 0x0C, 0x0C, 0, 0, 0, 0, 0, 0, 0x88, 0x13, 0, 0, 0, 0, 0, 0, 12, 0, 9, 0, 2, 0, 11, 0] := by
  decide

/-- CANCELLED is bit 5 of the flags (11.8). -/
theorem test_cancelled_flag_byte : ({ cancelled := true } : ReportFlags).mask = 0x20 := by
  decide

/-- The ARM record of 12.1: offsets and code values of 11.3 and 11.7. -/
theorem test_arm_record_bytes :
    decodeRecord #v[2, 2, 0x11, 0, 2, 0, 2, 0, 0xE8, 3, 0, 0, 0, 0, 0, 0, 0xF4, 1, 0, 0, 0, 0, 0, 0, 0, 0, 0, 0, 50, 0, 0, 0,
        3, 0, 0, 0, 0, 0, 0, 0, 4, 0, 0, 0, 0, 0, 0, 0, 0, 0, 0, 0, 0, 0, 0, 0, 0, 0, 0, 0, 0, 0, 0, 0]
      = { kind := 2
          body := { blank with
            mode := 2, flags := 0x11, requestId := 2, slot := 2, timeValue := 1000, period := 500, pulseWidth := 50
            limit := 3, actionKind := 4 } } := by
  decide

/-- The configuration block of 12.1, with ring bases 0x10000 and 0x20000: offsets of 11.2. -/
theorem test_block_bytes :
    decodeBlock #v[1, 0, 4, 4, 100, 0, 0, 0, 0, 0, 1, 0, 0, 0, 0, 0, 0, 0, 2, 0, 0, 0, 0, 0, 1, 0, 0, 0, 0, 0, 0, 0, 1, 0, 0, 0,
        0, 0, 0, 0, 0, 0, 0, 0, 0, 0, 0, 0, 0, 0, 0, 0, 0, 0, 0, 0, 0, 0, 0, 0, 0, 0, 0, 0] = block := by
  decide

/-! ## Single steps of the worked examples -/

/-- 9.6, entry 3: slot 300 fails step 3 before the period of 0 would fail step 4. -/
theorem test_bad_slot_before_bad_field :
    (run (.arm { blank with mode := 2, slot := 300 }) busy).held.map (·.answer.status) = some .badSlot := by
  decide +kernel

/-- 9.6, entry 4: OUT9 is not enabled. -/
theorem test_bad_line :
    (run (.line { blank with actionKind := 1, outputLine := 9 }) busy).held.map (·.answer.status) = some .badLine := by
  decide +kernel

/-- R141: report policy 3 and trip level 3 lie outside their ranges. -/
theorem test_codes_out_of_range_are_bad_fields :
    (run (.arm { blank with mode := 1, reportPolicy := 3 }) busy).held.map (·.answer.status) = some .badField
      ∧ (run (.configInput { blank with tripLevel := 3 }) busy).held.map (·.answer.status) = some .badField := by
  decide +kernel

/-- 9.6, entry 5: the ARM is answered with the state before and device time + 500. -/
theorem test_arm_answers_first_deadline :
    let t := run (.arm { blank with mode := 1, flags := 0x10, slot := 14, timeValue := 500, outputLine := 2, actionKind := 4
                                    pulseWidth := 20, group := 1 }) busy
    t.held.map (fun h => (h.answer.status, h.answer.valueA, h.answer.valueB, h.answer.generation)) = some (.ok, 0, 1500, 1)
      ∧ t.deadlineList = [14] := by
  decide +kernel

/-- 3.7: a REPEAT slot of period 100 and limit 5 with deadline 1,000 stepped to 1,250 goes on at 1,300 with limit 2, LATE and
OVERRUN. -/
theorem test_late_repeatTimeon_grid :
    let s := holding { arming (.repeating repeatPart) (.armed 1000) with anchoring := .abs } (atTime 950 busy)
    let t := run (.stepTime { blank with timeValue := 300 }) s
    t.held.map (fun h => (h.answer.valueA, h.answer.valueB)) = some (1250, 1)
      ∧ t.slots[14].arming.map (fun a => (a.phase, a.part))
          = some (.armed 1300, .repeating { repeatPart with limit := 2 })
      ∧ t.slots[14].report.fields.flags = { late := true, overrun := true } := by
  decide +kernel

/-- 3.7 under RESTART: 1,350 and a limit of 4, LATE alone. -/
theorem test_late_repeatTimerestart :
    let p := { repeatPart with latePolicy := .restart }
    let s := holding { arming (.repeating p) (.armed 1000) with anchoring := .abs } (atTime 950 busy)
    let t := run (.stepTime { blank with timeValue := 300 }) s
    t.slots[14].arming.map (fun a => (a.phase, a.part)) = some (.armed 1350, .repeating { p with limit := 4 })
      ∧ t.slots[14].report.fields.flags = { late := true } := by
  decide +kernel

/-- 6.7, the RENEW at 5,600: earlier than 5,700, so the guard is WARNED with deadline 5,800. -/
theorem test_early_renew :
    let g := { guardPart with lastRenew := 5400 }
    let t := run (.renew { blank with slot := 14 }) (holding (arming (.guard g) (.armed 6400)) (atTime 5600 busy))
    t.held.map (fun h => (h.answer.status, h.answer.valueA)) = some (.earlyRenew, 5800)
      ∧ t.slots[14].report.fields.flags = { warned := true, early := true } := by
  decide +kernel

/-- 6.7, the fault at 6,950: the action, then the trip by the guard. -/
theorem test_guard_fault_trips :
    let g := { guardPart with stage := .warned }
    let t := run (.guardFault 14) (holding (arming (.guard g) (.armed 6950)) (atTime 6950 busy))
    (t.outputPin 2, t.outputPin 7, t.faultAsserted, t.trip.record) = (some true, some true, true,
        { kind := .guard, index := 14, time := 6950 })
      ∧ t.writer.queue = [.slot 14, .controller] := by
  decide +kernel

/-- 5.7, the sample at 703 discards the candidate, and the one at 705 counts it to 1. -/
theorem test_filter_samples :
    (run (.tick 0x20) (withCandidate true false 1 busy)).inputs[5].candidate = none
      ∧ (run (.tick 0) (withCandidate true false 0 busy)).inputs[5].candidate = some { level := false, count := 1 } := by
  decide +kernel

/-- 5.7, 706: the third low sample in a row is accepted as a FALL. -/
theorem test_edge_is_accepted :
    (run (.edge 5 .slotsFirst) (withCandidate true false 2 busy)).inputs[5].qualified = some false
      ∧ (run (.edge 5 .slotsFirst) (withCandidate true false 1 busy)).inputs[5].qualified = some true := by
  decide +kernel

/-- 12.1: the block of 12.1 makes the device RUNNING with OUT0 at its default level and device time COUNTING. -/
theorem test_config_apply :
    let t := run .configApply { State.reset with control := { ControlBlock.reset with
      state := .loading, origin := some .halted, heldBlock := some block } }
    (t.control.state, t.time.counting, t.time.divider, t.outputPin 0, t.outputPin 1)
      = (.running, .counting, 100, some false, none) := by
  decide +kernel

/-! ## What meets the hypotheses of each statement -/

/-- A valid ARM of slot 14. -/
def armRequest : Request :=
  { blank with mode := 1, flags := 0x10, slot := 14, timeValue := 500, outputLine := 2, actionKind := 1, group := 1 }

/-- The ARM of slot 14 with a timeout of `k` ticks, as a WAIT_EDGE. -/
def edgeRequest (k : BitVec 32) : Request :=
  { blank with mode := 4, flags := 0x200, slot := 14, grace := k, inputLine := 7, edgeSelect := 3, group := 15 }

/-- Steps 2 to 5 of validation evaluated. -/
def passes (k : RequestKind) (r : Request) (s : State) : Bool :=
  @decide (¬ FailsFlags k r) (by unfold FailsFlags; infer_instance)
    && @decide (¬ FailsSlot k r) (by unfold FailsSlot; infer_instance)
    && @decide (¬ FailsField k r) (by unfold FailsField CarriesAction BadAction; infer_instance)
    && @decide (¬ FailsLine k r s) (by unfold FailsLine CarriesAction; infer_instance)

theorem valid_of_passes {k : RequestKind} {r : Request} {s : State} (h : passes k r s = true) : Valid k r s := by
  simp only [passes, Bool.and_eq_true, decide_eq_true_eq] at h
  exact ⟨h.1.1.1, h.1.1.2, h.1.2, h.2⟩

theorem witness_StepRunsTheFrontCommandOrIdles :
    { busy with pending := [.pause] }.pending = .pause :: []
      ∧ busy.pending = [] ∧ busy.time.phase + 1 < busy.time.tickLength
      ∧ State.reset.pending = [] ∧ State.reset.time.tickLength ≤ State.reset.time.phase + 1 := by
  decide

theorem witness_TickMovesTheTimeBase :
    State.reset.time.counting = .stopped ∧ busy.time.counting = .counting
      ∧ (atTime 0xFFFFFFFFFFFFFFFD busy).time.now.toNat < 2 ^ 64 - 2
      ∧ (atTime 0xFFFFFFFFFFFFFFFE busy).time.now.toNat = 2 ^ 64 - 2
      ∧ (run (.tick 0) (atTime 0xFFFFFFFFFFFFFFFE busy)).time.counting = .ended := by
  decide +kernel

/-- A state of which nothing is due: a deadline one tick ahead, a pulse end one tick ahead, a candidate one tick short of
its filter and a running delay timer. -/
def quiet : State :=
  let s := holding (arming .once (.armed 1001)) (withCandidate false true 1 busy)
  { s with
    lines := s.lines.set 2 { lowLine false with drive := some { level := true, pulseEnd := some { time := 1001, level := false } } }
    writer := { s.writer with delayTimer := some 1 } }

theorem witness_TickSamplesAndFilters :
    (∀ n ∈ quiet.deadlineList, ∀ d, deadlineOf quiet.slots[n] = some d → quiet.time.now < d)
      ∧ (∀ (n : LineNumber) e, pulseOf n quiet = some e → quiet.time.now < e.time)
      ∧ (∀ (n : InputNumber) c, quiet.inputs[n].candidate = some c → c.count < quiet.inputs[n].filter.toNat)
      ∧ (∀ n : InputNumber, quiet.inputs[n].edge = none) ∧ quiet.writer.delayTimer ≠ some 0 := by
  have h1 : quiet.deadlineList = [14] ∧ deadlineOf quiet.slots[(14 : SlotNumber)] = some 1001 ∧ quiet.time.now = 1000 := by
    decide +kernel
  have h2 : ∀ n : LineNumber, pulseOf n quiet = none ∨ pulseOf n quiet = some { time := 1001, level := false } := by
    decide +kernel
  have h3 : ∀ n : InputNumber, quiet.inputs[n].filter = 2
      ∧ (quiet.inputs[n].candidate = none ∨ quiet.inputs[n].candidate = some { level := true, count := 1 }) := by
    decide +kernel
  refine ⟨?_, ?_, ?_, by decide +kernel⟩
  · intro n hn d hd
    rw [h1.1] at hn
    obtain rfl := List.mem_singleton.1 hn
    rw [h1.2.1] at hd
    rw [h1.2.2, ← Option.some.inj hd]
    decide
  · intro n e he
    rcases h2 n with h | h <;> rw [h] at he
    · simp at he
    · rw [h1.2.2, ← Option.some.inj he]
      decide
  · intro n c hc
    rcases (h3 n).2 with h | h <;> rw [h] at hc
    · simp at hc
    · rw [(h3 n).1, ← Option.some.inj hc]
      decide

/-- The five cases of the filter. -/
theorem witness_TickSamplesAndFilters_cases :
    State.reset.inputs[0].qualified = none ∧ quiet.inputs[5].qualified = some (!true)
      ∧ quiet.inputs[5].candidate = some { level := true, count := 1 }
      ∧ quiet.inputs[0].qualified = some (!true) ∧ quiet.inputs[0].candidate = none := by
  decide +kernel

theorem witness_ReadTimeAnswersDeviceTime_NopAnswersOk_FenceMarksTheQueue :
    Arrives busy ∧ Clean blank ∧ blank.flags = 0 ∧ Clean { blank with flags := 0x8000 }
      ∧ ({ blank with flags := 0x8000 } : Request).flags ≠ 0 := by
  decide

theorem witness_TimeStepsAnswerTheirOffset :
    Arrives busy ∧ Unflagged { blank with timeValue := 1 } ∧ ({ blank with timeValue := 1 } : Request).timeValue ≠ 0
      ∧ Unflagged { blank with timeValue := 1000 } ∧ ({ blank with timeValue := 1000 } : Request).timeValue = busy.time.now
      ∧ ¬ Fits busy.time.now (-1001) ∧ StepFits (-1000) busy := by
  refine ⟨by decide, by decide, by decide, by decide, by decide, by decide, by decide, ?_, ?_⟩
  · intro n a d h
    have hn : ∀ n : SlotNumber, busy.slots[n].arming = none := by decide +kernel
    rw [hn] at h
    simp at h
  · intro n e h
    have hn : ∀ n : LineNumber, pulseOf n busy = none := by decide +kernel
    rw [hn] at h
    simp at h

theorem witness_ArmSetsUpTheSlot :
    (Arrives busy ∧ passes .arm armRequest busy = true ∧ Names armRequest 14 ∧ armRequest.group.toNat = (1 : GroupNumber).val
        ∧ busy.slots[(14 : SlotNumber)].report.state = .none ∧ busy.slots[(14 : SlotNumber)].arming = none)
      ∧ FirstDeadline armRequest busy.time.now (some 1500) ∧ busy.time.now < (1500 : Time) := by
  refine ⟨⟨by decide, ?_, by decide, by decide, by decide +kernel, by decide +kernel⟩, ?_, by decide⟩
  · decide +kernel
  · refine ⟨by decide, by decide, by decide, fun _ _ => ⟨1500, rfl, by decide⟩⟩

/-- A held group, and a timeout that ends at the last time of the range. -/
theorem witness_ArmSetsUpTheSlot_held :
    let s := { atTime 0xFFFFFFFFFFFFFFFE busy with groups := busy.groups.set 15 .held }
    Arrives s ∧ passes .arm (edgeRequest 1) s = true ∧ s.groups[(15 : GroupNumber)] = .held ∧ (edgeRequest 1).mode.toNat ≠ 3
      ∧ FirstDeadline (edgeRequest 1) s.time.now (some 0xFFFFFFFFFFFFFFFF) := by
  refine ⟨by decide, ?_, by decide, by decide, ?_⟩
  · decide +kernel
  · exact ⟨by decide, fun _ _ => ⟨0xFFFFFFFFFFFFFFFF, rfl, by decide⟩, by decide, by decide⟩

/-- A pending report, an armed slot without REPLACE, and a timeout one tick beyond the range. -/
theorem witness_ArmIsRefusedInOrder :
    let late := atTime 0xFFFFFFFFFFFFFFFF busy
    let armed := holding (arming .once (.armed 2000)) busy
    let reported := busy.recordEvent (.slot 14) { event := .expiry, time := 990, tag := 0, flags := {} } true
    Arrives late ∧ passes .arm (edgeRequest 1) late = true ∧ Names (edgeRequest 1) 14 ∧ FirstDeadlineBeyond (edgeRequest 1) late.time.now
      ∧ passes .arm armRequest armed = true ∧ armed.slots[(14 : SlotNumber)].arming ≠ none ∧ armRequest.flags.getLsbD 2 = false
      ∧ passes .arm armRequest reported = true ∧ reported.slots[(14 : SlotNumber)].report.state = .pending := by
  unfold FirstDeadlineBeyond
  decide +kernel

/-- A START_AT exactly at device time, and one long past under REPLACE. -/
theorem witness_ArmTakesAnExpiredDeadlineAtOnce :
    let r := { blank with mode := 1, flags := 0x1, slot := 14, timeValue := 1000, group := 1 }
    let p := { blank with mode := 2, flags := 0x5, slot := 14, timeValue := 10, period := 100, group := 1 }
    let armed := holding (arming .once (.armed 2000)) busy
    (Arrives busy ∧ passes .arm r busy = true ∧ Names r 14 ∧ r.group.toNat = (1 : GroupNumber).val ∧ r.mode.toNat = 1
        ∧ r.flags.getLsbD 4 = false ∧ busy.groups[(1 : GroupNumber)] = .running)
      ∧ (passes .arm p armed = true ∧ armed.slots[(14 : SlotNumber)].report.state = .none ∧ p.flags.getLsbD 2 = true)
      ∧ FirstDeadline r busy.time.now (some 1000) ∧ FirstDeadline p armed.time.now (some 10) := by
  refine ⟨?_, ?_, ?_, ?_⟩
  · decide +kernel
  · decide +kernel
  · exact ⟨by decide, by decide, by decide, by decide⟩
  · exact ⟨by decide, by decide, by decide, by decide⟩

/-- Stale; IDLE; armed with an empty report; armed with a pending one. -/
theorem witness_CancelEndsAnArming :
    let r := { blank with slot := 14, flags := 0x8 }
    let armed := holding (arming .once (.armed 2000)) busy
    let reported := armed.recordEvent (.slot 14) { event := .expiry, time := 990, tag := 0, flags := {} } true
    Arrives armed ∧ passes .cancel r armed = true ∧ Names r 14
      ∧ ({ r with expectedGen := 4 } : Request).expectedGen ≠ armed.slots[(14 : SlotNumber)].generation
      ∧ r.expectedGen = armed.slots[(14 : SlotNumber)].generation
      ∧ busy.slots[(14 : SlotNumber)].arming = none ∧ armed.slots[(14 : SlotNumber)].arming ≠ none
      ∧ armed.slots[(14 : SlotNumber)].report.state = .none ∧ reported.slots[(14 : SlotNumber)].report.state = .pending := by
  decide +kernel

theorem witness_CancelGroupEndsItsArmings_HoldSuspendsItsGroups :
    let s := holding (arming .once (.armed 2000)) busy
    let r := { blank with groupMask := 0x8002 }
    Arrives s ∧ Unflagged r ∧ (s.slots[(14 : SlotNumber)].arming.any fun a => r.groupMask.getLsbD a.group.val) = true
      ∧ (s.slots[(15 : SlotNumber)].arming.any fun a => r.groupMask.getLsbD a.group.val) = false := by
  decide +kernel

theorem witness_StageRecordsItsChange :
    let r := { blank with slot := 14, flags := 0x1D0, period := 1, actionKind := 5, pulseWidth := 0xFFFFFF, outputLine := 7 }
    let once := holding (arming .once (.armed 2000)) busy
    let repeating := holding (arming (.repeating repeatPart) (.armed 2000)) busy
    Arrives repeating ∧ passes .stage r repeating = true ∧ Names r 14 ∧ passes .stage r once = true ∧ busy.slots[(14 : SlotNumber)].arming = none
      ∧ once.slots[(14 : SlotNumber)].arming = some (arming .once (.armed 2000))
      ∧ repeating.slots[(14 : SlotNumber)].arming = some (arming (.repeating repeatPart) (.armed 2000)) := by
  decide +kernel

/-- One slot held with `left` ticks. -/
def suspended (left : BitVec 64) : State := holding (arming .once (.held .armed (some left))) busy

theorem suspended_sound (left : BitVec 64) : SlotStatesSound (suspended left) := by
  intro n a h
  by_cases hn : n = 14
  · subst hn
    rw [suspended, holding, State.putArming_slot] at h
    rw [← Option.some.inj h]
    rfl
  · have hb : ∀ n : SlotNumber, busy.slots[n].arming = none := by decide +kernel
    rw [suspended, holding, State.putArming_slot_ne _ _ hn, hb] at h
    simp at h

/-- A remaining time of 1 fits, one that leads past the range does not. -/
theorem witness_ReleaseResumesItsGroups :
    let r := { blank with groupMask := 2 }
    Arrives (suspended 1) ∧ Unflagged r ∧ SlotStatesSound (suspended 1) ∧ busy.deadlineList = []
      ∧ ((suspended 1).slots[(14 : SlotNumber)].arming.bind fun a => a.phase.heldTime) = some 1
      ∧ (1000 : Time).toNat + (1 : BitVec 64).toNat < 2 ^ 64
      ∧ SlotStatesSound (suspended (BitVec.allOnes 64)) ∧ ¬ (1000 : Time).toNat + (BitVec.allOnes 64).toNat < 2 ^ 64 := by
  refine ⟨by decide, by decide, suspended_sound 1, by decide, by decide +kernel, by decide, suspended_sound _, by decide⟩

theorem witness_QuerySlotAnswersTheRecord :
    let armed := holding (arming (.waitEdge edgePart) (.held .waiting none)) busy
    Arrives busy ∧ Arrives armed ∧ Unflagged { blank with slot := 255 } ∧ Names { blank with slot := 255 } 255
      ∧ busy.slots[(255 : SlotNumber)].arming = none ∧ Names { blank with slot := 14 } 14
      ∧ armed.slots[(14 : SlotNumber)].arming = some (arming (.waitEdge edgePart) (.held .waiting none)) := by
  decide +kernel

/-- A guard renewed exactly at the end of its window, one tick before it, and where the new deadline leaves the range. -/
theorem witness_RenewReturnsAGuardToNormal_EarlyRenewEscalates :
    let r := { blank with slot := 14, flags := 0x8 }
    let s := holding (arming (.guard guardPart) (.armed 1900)) (atTime 1200 busy)
    let u := holding (arming (.guard guardPart) (.armed 1900)) (atTime 1199 busy)
    let w := holding (arming (.guard { guardPart with stage := .warned }) (.armed 1900)) (atTime 1199 busy)
    Arrives s ∧ passes .renew r s = true ∧ Names r 14 ∧ r.expectedGen = s.slots[(14 : SlotNumber)].generation
      ∧ s.slots[(14 : SlotNumber)].arming = some (arming (.guard guardPart) (.armed 1900))
      ∧ guardPart.lastRenew.toNat + guardPart.window.toNat ≤ s.time.now.toNat
      ∧ s.time.now.toNat + guardPart.period.toNat < 2 ^ 64
      ∧ ¬ (atTime (BitVec.allOnes 64) s).time.now.toNat + guardPart.period.toNat < 2 ^ 64
      ∧ passes .renew r u = true ∧ guardPart.window ≠ 0 ∧ u.time.now.toNat < guardPart.lastRenew.toNat + guardPart.window.toNat
      ∧ w.slots[(14 : SlotNumber)].arming = some (arming (.guard { guardPart with stage := .warned }) (.armed 1900))
      ∧ (holding (arming .once (.armed 2000)) busy).slots[(14 : SlotNumber)].arming = some (arming .once (.armed 2000)) := by
  decide +kernel

/-- OUT8 is not enabled, OUT7 is held by a trip, OUT0 takes actions. -/
theorem witness_ActionsActOnTheirLine :
    let s := tripped 0 busy
    s.lines[(8 : LineNumber)].drive = none
      ∧ (s.lines[(7 : LineNumber)].drive ≠ none ∧ s.lines[(7 : LineNumber)].participates = true ∧ s.trip.state = .tripped)
      ∧ s.lines[(0 : LineNumber)].drive ≠ none ∧ s.lines[(0 : LineNumber)].participates = false := by
  decide

theorem witness_EventsCoalesceAtTheirSource_RaisesTripTheDevice :
    (busy.report .controller).state = .none ∧ ((busy.raise .forced).report .controller).state = .pending
      ∧ busy.trip.state = .clear ∧ (busy.raise .forced).trip.state = .tripped := by
  decide +kernel

/-- A ONCE slot exactly at its deadline, a guard in either stage, an after-edge delay and a timeout that are late. -/
theorem witness_expiries :
    let once := holding (arming .once (.armed 1000)) busy
    let rep := holding (arming (.repeating repeatPart) (.armed 750)) busy
    let warn := holding (arming (.guard guardPart) (.armed 1000)) busy
    let fault := holding (arming (.guard { guardPart with stage := .warned }) (.armed 1000)) busy
    let edge := holding (arming (.waitEdge edgePart) (.armed 990)) busy
    let wait := holding (arming (.waitEdge edgePart) (.waiting (some 990))) busy
    ComesDue 14 (arming .once (.armed 1000)) 1000 once
      ∧ ComesDue 14 (arming (.repeating repeatPart) (.armed 750)) 750 rep
      ∧ ComesDue 14 (arming (.guard guardPart) (.armed 1000)) 1000 warn
      ∧ ComesDue 14 (arming (.guard { guardPart with stage := .warned }) (.armed 1000)) 1000 fault
      ∧ ComesDue 14 (arming (.waitEdge edgePart) (.armed 990)) 990 edge
      ∧ ComesDue 14 (arming (.waitEdge edgePart) (.waiting (some 990))) 990 wait
      ∧ once.deadlineList.head? ≠ some 15 ∧ deadlineOf (suspended 1).slots[(14 : SlotNumber)] = none
      ∧ rowOf 14 (arming .once (.armed 1000)) = some (.onceExpiry 14) := by
  decide +kernel

theorem witness_PulseEndsDriveTheEndLevel :
    pulseOf 2 quiet = some { time := 1001, level := false } ∧ quiet.time.now < 1001
      ∧ pulseOf 2 (atTime 1001 quiet) = some { time := 1001, level := false } ∧ pulseOf 3 quiet = none := by
  decide +kernel

/-- A line held by a trip, a pulse one tick beyond the range and one that ends at its last time. -/
theorem witness_LineDrivesItsLine :
    let r := { blank with outputLine := 7, actionKind := 4, pulseWidth := 0xFFFFFF }
    let s := atTime 0xFFFFFFFFFF000000 busy
    (Arrives s ∧ passes .line r s = true ∧ r.outputLine.toNat = (7 : LineNumber).val
        ∧ s.lines[(7 : LineNumber)].drive = some { level := false, pulseEnd := none })
      ∧ s.time.now.toNat + r.pulseWidth.toNat = 2 ^ 64 - 1
      ∧ 2 ^ 64 ≤ (atTime 0xFFFFFFFFFF000001 busy).time.now.toNat + r.pulseWidth.toNat
      ∧ passes .line r (tripped 0 busy) = true ∧ (tripped 0 busy).lines[(7 : LineNumber)].participates = true := by
  decide +kernel

/-- A candidate one tick short of its filter, and one exactly at it with a slot that waits for the fall. -/
theorem witness_EdgeIsOfferedToEverySlot :
    let s := holding (arming (.waitEdge edgePart) (.waiting none)) (withCandidate true false 2 busy)
    ((withCandidate true false 1 busy).inputs[(5 : InputNumber)].candidate = some { level := false, count := 1 })
      ∧ s.inputs[(5 : InputNumber)].candidate = some { level := false, count := 2 }
      ∧ s.inputs[(5 : InputNumber)].filter.toNat ≤ 2 ∧ s.inputs[(5 : InputNumber)].edge = none ∧ s.inputs[(5 : InputNumber)].active = false
      ∧ s.inputs[(5 : InputNumber)].tripLevel = .none
      ∧ s.slots[(14 : SlotNumber)].arming = some (arming (.waitEdge edgePart) (.waiting none))
      ∧ edgePart.input = 5 ∧ edgePart.select = .fall ∧ edgePart.delay = none
      ∧ ∀ m : SlotNumber, m ≠ 14 → s.slots[m].arming = none := by
  decide +kernel

theorem witness_IntervalsSound :
    IntervalsSound (holding (arming (.waitEdge edgePart) (.waiting none)) (withCandidate true false 2 busy)) := by
  have hb : ∀ n : SlotNumber, (withCandidate true false 2 busy).slots[n].arming = none := by decide +kernel
  intro n a h
  by_cases hn : n = 14
  · rw [hn, holding, State.putArming_slot] at h
    rw [← Option.some.inj h]
    refine ⟨?_, by decide, by decide⟩
    intro x hx
    rw [← Option.some.inj hx]
    trivial
  · rw [holding, State.putArming_slot_ne _ _ hn, hb] at h
    simp at h

/-- Slots 3 and 14 wait for the fall of IN5, which has trip level LOW and a candidate at its full count. -/
def twoWaiting : State :=
  let s := withCandidate true false 2 busy
  let t : State := { s with inputs := s.inputs.set 5 { s.inputs[(5 : InputNumber)] with tripLevel := .low } }
  (holding (arming (.waitEdge edgePart) (.waiting none)) t).putArming 3 (some (arming (.waitEdge edgePart) (.waiting none)))

/-- R82: a CANCEL between the offers to slots 3 and 14 takes the edge from slot 14 alone, a TICK ends what is left, and the
trip comes when the trip-level status takes the edge (R77). -/
theorem test_claims_between_offers :
    let begun := run (.edge 5 (.offersBelow 14)) twoWaiting
    let whole := run (.edge 5 .slotsFirst) begun
    let cancelled := run (.edge 5 .slotsFirst) (run (.cancel { blank with slot := 14 }) begun)
    (begun.inputs[5].edge = some { level := false, time := 1000, next := 14, statusDue := true } ∧ begun.trip.state = .clear)
      ∧ (whole.writer.queue = [.slot 3, .slot 14, .controller] ∧ whole.inputs[5].edge = none ∧ whole.trip.state = .tripped)
      ∧ cancelled.writer.queue = [.slot 3, .controller]
      ∧ (run (.tick 0) begun).writer.queue = [.slot 3, .slot 14, .controller] := by
  decide +kernel

/-- A candidate at its full count; the edge it makes, under way, with and without its trip-level status still due. -/
theorem witness_EdgeIsTakenInShares :
    let l := twoWaiting.inputs[(5 : InputNumber)]
    let b : InputLine := { l with qualified := some false, candidate := none }
    let s := run (.edge 5 (.offersBelow 4)) twoWaiting
    let t := run (.edge 5 .status) s
    Begun twoWaiting.time.now l b { level := false, time := 1000, next := 0, statusDue := true }
      ∧ s.inputs[(5 : InputNumber)].edge = some { level := false, time := 1000, next := 4, statusDue := true }
      ∧ t.inputs[(5 : InputNumber)].edge = some { level := false, time := 1000, next := 4, statusDue := false }
      ∧ (s.inputs[(5 : InputNumber)].candidate = none ∧ t.inputs[(5 : InputNumber)].candidate = none) := by
  refine ⟨.inr ⟨by decide +kernel, { level := false, count := 2 }, by decide +kernel⟩, by decide +kernel⟩

/-- R80, sample first: the accepted level trips the device under the old trip level before CONFIG_INPUT removes it; the
other offers of the edge are still to come. -/
theorem test_config_input_after_acceptance :
    let s := run (.configInput { blank with inputLine := 5 }) (run (.edge 5 (.offersBelow 0)) twoWaiting)
    s.trip.state = .tripped ∧ s.trip.inputCauses = 0 ∧ s.inputs[5].active = false ∧ s.inputs[5].tripLevel = .none
      ∧ (run (.edge 5 .slotsFirst) s).writer.queue = [.controller, .slot 3, .slot 14] := by
  decide +kernel

/-- A candidate whose acceptance is due, and an accepted one whose status is still to be re-evaluated. -/
theorem witness_ConfigInput_orders :
    let r := { blank with inputLine := 5, tripLevel := 2, filterLength := 255 }
    let s := withCandidate true false 2 busy
    let e : State := { run (.edge 5 (.offersBelow 0)) twoWaiting with fetch := busy.fetch }
    (passes .configInput r s = true ∧ s.inputs[(5 : InputNumber)].qualified = some true
        ∧ s.inputs[(5 : InputNumber)].candidate = some { level := false, count := 2 }
        ∧ s.inputs[(5 : InputNumber)].filter.toNat ≤ 2 ∧ s.inputs[(5 : InputNumber)].edge = none)
      ∧ (Arrives e ∧ passes .configInput r e = true
        ∧ e.inputs[(5 : InputNumber)].edge = some { level := false, time := 1000, next := 0, statusDue := true }) := by
  decide +kernel

theorem witness_ConfigInputReevaluatesTheTripLevel :
    let r := { blank with inputLine := 5, tripLevel := 2, filterLength := 255 }
    let s := withCandidate false true 1 busy
    Arrives s ∧ passes .configInput r s = true ∧ r.inputLine.toNat = (5 : InputNumber).val
      ∧ s.inputs[(5 : InputNumber)].qualified = some false
      ∧ (∀ c ∈ s.inputs[(5 : InputNumber)].candidate, c.count < s.inputs[(5 : InputNumber)].filter.toNat)
      ∧ true = (decide (r.tripLevel = 1) && false || decide (r.tripLevel = 2) && !false) := by
  decide +kernel

theorem witness_TripRequestsFollowTheirTable_OnlyClearTripLeavesTripped :
    Arrives busy ∧ Clean blank ∧ blank.flags = 0 ∧ busy.trip.state = .clear ∧ (tripped 0 busy).trip.state = .tripped
      ∧ (tripped 0 busy).trip.inputCauses = 0 ∧ (tripped 0x80 busy).trip.inputCauses ≠ 0 := by
  decide

theorem witness_ControlCommandsMoveTheState :
    State.reset.control.state = .halted ∧ (run (.fetchReadError .own) busy).control.state = .faulted
      ∧ busy.control.state = .running ∧ busy.fetch.inFlight ≠ none
      ∧ (run .pause busy).control.state = .pausing
      ∧ { busy with fetch := FetchUnit.reset }.fetch.inFlight = none ∧ busy.held = none
      ∧ (Instr.controlWriteUnassignedCode 0).wellFormed = true ∧ (Instr.controlWriteUnassignedCode 5).wellFormed = true := by
  decide +kernel

/-- The valid block at its least sizes and greatest divider, and the same with a submission size of 3. -/
theorem witness_ConfigReadEndsTheLoadOrHoldsTheBlock :
    let s := run .start State.reset
    s.control.configRead ≠ none ∧ s.fetch.inFlight = none ∧ { block with divider := 65536 }.valid = true
      ∧ { block with submissionLog2 := 3 }.valid = false := by
  decide +kernel

theorem witness_ConfigApplyTakesTheBlockWhole :
    let b := { block with enableMask := 0x81, participateMask := 0x80 }
    let s := { tripped 0 busy with control := { busy.control with state := .loading, origin := some .faulted, heldBlock := some b } }
    s.control.heldBlock = some b ∧ s.writer.inFlight = none ∧ (writing .response s).writer.inFlight ≠ none
      ∧ b.enableMask.getLsbD 1 = false
      ∧ (b.enableMask.getLsbD 7 = true ∧ b.participateMask.getLsbD 7 = true ∧ s.trip.state = .tripped)
      ∧ (b.enableMask.getLsbD 0 = true ∧ b.participateMask.getLsbD 0 = false ∧ s.configurationPresent = true
          ∧ s.lines[(0 : LineNumber)].drive ≠ none) ∧ State.reset.configurationPresent = false := by
  decide

theorem witness_SubmitTailIsRangeChecked :
    (15 : BitVec 32).toNat < busy.fetch.entries ∧ busy.fetch.entries ≤ (16 : BitVec 32).toNat := by
  decide

theorem witness_FetchesAreIssuedAndEnd :
    let s := { busy with fetch := { busy.fetch with inFlight := none } }
    let withdrawn := { busy with fetch := { busy.fetch with tail := 0 } }
    (s.control.state = .running ∧ s.fetch.head ≠ s.fetch.tail ∧ s.held = none ∧ s.fetch.inFlight = none)
      ∧ Arrives busy ∧ requestOf (.nop blank) = some (.nop, blank)
      ∧ withdrawn.fetch.inFlight ≠ none ∧ withdrawn.fetch.tail = withdrawn.fetch.head
      ∧ (run .pause withdrawn).control.state = .pausing ∧ (run .pause withdrawn).fetch.inFlight ≠ none := by
  decide +kernel

/-- A record refused at each step, one that passes, and the first code that names no kind. -/
theorem witness_ValidationRefusesInOrder :
    FailsFlags .nop { blank with flags := 1 }
      ∧ (¬ FailsFlags .arm { blank with slot := 256 } ∧ FailsSlot .arm { blank with slot := 256 })
      ∧ (¬ FailsSlot .arm { blank with slot := 255 } ∧ FailsField .arm { blank with slot := 255 })
      ∧ (¬ FailsField .line { blank with actionKind := 3, outputLine := 8 }
          ∧ FailsLine .line { blank with actionKind := 3, outputLine := 8 } busy)
      ∧ Valid .line { blank with actionKind := 3, outputLine := 7 } busy ∧ 16 < (17 : Byte).toNat := by
  refine ⟨?_, ⟨?_, ?_⟩, ⟨?_, ?_⟩, ⟨?_, ?_⟩, valid_of_passes (by decide +kernel), by decide⟩
  · unfold FailsFlags; decide
  · unfold FailsFlags; decide
  · unfold FailsSlot; decide
  · unfold FailsSlot; decide
  · unfold FailsField CarriesAction BadAction; decide
  · unfold FailsField CarriesAction BadAction; decide
  · unfold FailsLine CarriesAction; decide +kernel

/-- 15 written records, none released: the head may advance to 15 and not come back. -/
theorem witness_CompleteHeadReleasesWrittenRecords :
    let s := { State.reset with writer := { CompletionWriter.reset with writeIndex := 15, completeHead := 3 } }
    RangesSound s
      ∧ ((15 : BitVec 32).toNat < 16 ∧ (15 + 16 - 3) % 16 ≤ (15 + 16 - 3) % 16)
      ∧ ¬ ((2 : BitVec 32).toNat < 16 ∧ (2 + 16 - 3) % 16 ≤ (15 + 16 - 3) % 16) := by
  refine ⟨⟨by decide, by decide, by decide, by decide, by decide, by decide, by decide, ?_⟩, by decide, by decide⟩
  intro b h
  simp [State.reset, ControlBlock.reset] at h

/-- A held response alone; a fairness count of 4 with a report of another slot; a FENCE response that waits. -/
theorem witness_CompletionWriteIsArbitrated :
    let s := { busy with writer := { busy.writer with queue := [.slot 3], fairness := 4, fenceMark := some 1 } }
    (s.control.state = .running ∧ s.writer.inFlight = none ∧ (s.writer.writeIndex + 1) % s.writer.entries ≠ s.writer.completeHead)
      ∧ (answering .ordinary s).held ≠ none ∧ (answering (.acceptedArm 3) s).held ≠ none
      ∧ (answering .fence s).writer.fenceMark ≠ some 0 ∧ s.writer.queue = [.slot 3] ∧ busy.writer.queue = []
      ∧ ¬ (State.reset.control.state = .running ∨ State.reset.control.state = .pausing ∨ State.reset.control.state = .paused) := by
  decide

theorem witness_acknowledgements_and_errors :
    let f : ReportFields := { event := some .expiry, time := 990, tag := 7, count := 65535, flags := {} }
    let s := writing (.report (.slot 3) f) { busy with writer := { busy.writer with queue := [.slot 3] } }
    let t := writing .response (answering .ordinary busy)
    (s.writer.inFlight.map (·.source) = some (.report (.slot 3) f) ∧ s.writer.queue.head? = some (.slot 3))
      ∧ ((s.report (.slot 3)).fields.event = none
        ∧ ((s.putReport (.slot 3) { state := .pending, fields := f }).report (.slot 3)).fields.event ≠ none)
      ∧ (t.writer.inFlight.map (·.source) = some .response ∧ t.held ≠ none)
      ∧ s.control.state = .running ∧ { s with control := { s.control with state := .faulted } }.control.state = .faulted := by
  decide

/-- R32, R157: an acknowledged report leaves empty fields when nothing was coalesced during its write, and keeps what was. -/
theorem test_acknowledged_report :
    let f : ReportFields := { event := some .expiry, time := 990, tag := 7, count := 1, flags := {} }
    let s (g : ReportFields) := run (.reportWriteAck .own) (writing (.report (.slot 3) f)
      ({ busy with writer := { busy.writer with queue := [.slot 3] } }.putReport (.slot 3) { state := .pending, fields := g }))
    (s f.issued).report (.slot 3) = .empty ∧ (s f).report (.slot 3) = { state := .none, fields := f } := by
  decide +kernel

theorem witness_ModerationDelaySignalsCompletion :
    { busy with writer := { busy.writer with delayTimer := some 0 } }.writer.delayTimer = some 0
      ∧ quiet.writer.delayTimer ≠ some 0 := by
  decide +kernel

/-- One slot armed a tick ahead of device time, a fetch in flight, and the device tripped with its report queued. -/
def sound : State := (holding (arming .once (.armed 1001)) busy).raise .forced

theorem sound_slot (n : SlotNumber) :
    (n = 14 → sound.slots[n].arming = some (arming .once (.armed 1001))) ∧ (n ≠ 14 → sound.slots[n].arming = none) := by
  have hb : ∀ n : SlotNumber, busy.slots[n].arming = none := by decide +kernel
  rw [sound, State.raise_slots]
  constructor
  · rintro rfl
    rw [holding, State.putArming_slot]
  · intro h
    rw [holding, State.putArming_slot_ne _ _ h, hb]

theorem witness_DeadlineListIsKept : DeadlineListSound sound ∧ ∃ t, step sound = .next t := by
  refine ⟨?_, _, rfl⟩
  unfold DeadlineListSound
  decide +kernel

theorem witness_ReportQueueIsKept : ReportQueueSound sound ∧ sound.writer.queue = [.controller] := by
  have h : ∀ n : SlotNumber, (sound.report (.slot n)).state = .none := by decide +kernel
  have hc : (sound.report .controller).state = .pending := by decide +kernel
  have hq : sound.writer.queue = [.controller] := by decide +kernel
  have hw : sound.writer.inFlight = none := by decide +kernel
  refine ⟨⟨by rw [hq]; simp, ?_, ?_⟩, hq⟩
  · intro src
    rw [hq]
    cases src with
    | slot n => simp [h n]
    | controller => simp [hc]
  · intro w src formed hf
    rw [hw] at hf
    simp at hf

theorem witness_SafeLevelsAndCausesAreKept :
    SafeLevelsHeld sound ∧ CausesSound sound ∧ sound.trip.state = .tripped ∧ sound.outputPin 7 = some true := by
  have hl : ∀ n : LineNumber, sound.lines[n].participates = true →
      sound.lines[n].drive = some { level := sound.lines[n].safeLevel, pulseEnd := none } := by decide +kernel
  refine ⟨?_, ?_, by decide +kernel, by decide +kernel⟩
  · intro _ n d hd hp
    have h := hl n hp
    rw [hd] at h
    exact Option.some.inj h
  · unfold CausesSound
    decide +kernel

theorem witness_TrafficFollowsTheControllerState : TrafficSound sound := by
  have hf : sound.fetch.inFlight = some 0 ∧ sound.fetch.head = 0 ∧ sound.control.state = .running ∧ sound.held = none
      ∧ sound.control.origin = none ∧ sound.control.configRead = none ∧ sound.control.heldBlock = none
      ∧ sound.writer.inFlight = none := by decide +kernel
  obtain ⟨h1, h2, h3, h4, h5, h6, h7, h8⟩ := hf
  refine ⟨?_, ⟨by rw [h3]; simp, by rw [h3]; simp, by rw [h3]; simp⟩, ⟨by rw [h3]; simp, fun _ => ⟨h5, h6, h7⟩⟩, ?_⟩
  · intro i hi
    rw [h1] at hi
    exact ⟨.inl h3, by rw [h2, Option.some.inj hi], h4⟩
  · intro w hw
    rw [h8] at hw
    simp at hw

theorem witness_RangesAreKept_CountingIsKept :
    (RangesSound sound ∧ RingSound sound ∧ ModerationSound sound) ∧ CountingSound sound := by
  have hb : sound.control.heldBlock = none ∧ sound.writer.inFlight = none ∧ sound.writer.delayTimer = none := by
    decide +kernel
  obtain ⟨h1, h2, h3⟩ := hb
  have hv : ∀ b, sound.control.heldBlock = some b → b.valid = true := by
    intro b h
    rw [h1] at h
    simp at h
  refine ⟨⟨⟨by decide +kernel, by decide +kernel, by decide +kernel, by decide +kernel, by decide +kernel,
    by decide +kernel, by decide +kernel, hv⟩, ?_, hv, by decide +kernel, ?_⟩,
    by decide +kernel, by decide +kernel, by decide +kernel, by decide +kernel, fun _ _ => by decide +kernel⟩
  · intro w h
    rw [h2] at h
    simp at h
  · intro k h
    rw [h3] at h
    simp at h

/-- A FENCE response that waits for the two reports before it, and the response to an ARM of a slot whose report is none of
them. -/
theorem witness_ResponsesKeepTheirPlace :
    let s := answering .fence { busy with writer := { busy.writer with queue := [.slot 3, .controller], fenceMark := some 2 } }
    let t := answering (.acceptedArm 14) sound
    FenceSound s ∧ ReportQueueSound t ∧ ArmResponseFirst t := by
  refine ⟨⟨?_, ?_⟩, witness_ReportQueueIsKept.1, ?_⟩
  · intro k h
    rw [← Option.some.inj h]
    decide
  · intro h _ _
    decide
  · intro h n _ _ w formed hf
    have hw : sound.writer.inFlight = none := by decide +kernel
    have : (answering (.acceptedArm 14) sound).writer.inFlight = none := hw
    rw [this] at hf
    simp at hf

/-- A FENCE response on its way after every report before it. -/
theorem witness_FenceResponseComesLast :
    let s := writing .response (answering .fence
      { busy with fetch := { busy.fetch with inFlight := none }, writer := { busy.writer with fenceMark := some 0 } })
    TrafficSound s ∧ FenceSound s ∧ FenceWrittenLast s := by
  refine ⟨⟨?_, ⟨by decide, by decide, by decide⟩, ⟨by decide, fun _ => by decide⟩, ?_⟩, ⟨?_, ?_⟩, ?_⟩
  · intro i hi
    exact absurd hi (by simp [writing, answering, State.holdResponse, State.withHeld])
  · intro w _
    exact ⟨by decide, by decide, fun _ => by decide⟩
  · intro k h
    rw [← Option.some.inj h]
    decide
  · intro h _ _
    decide
  · intro w h _ _ _ _
    rfl

theorem witness_DeadlinesStayAhead : DeadlineListSound sound ∧ SlotStatesSound sound ∧ DeadlinesAhead sound := by
  refine ⟨witness_DeadlineListIsKept.1, ?_, ?_, ?_, ?_⟩
  · intro n a h
    by_cases hn : n = 14
    · rw [(sound_slot n).1 hn] at h
      rw [← Option.some.inj h]
      rfl
    · rw [(sound_slot n).2 hn] at h
      simp at h
  · intro n a h
    by_cases hn : n = 14
    · rw [(sound_slot n).1 hn] at h
      rw [← Option.some.inj h]
      refine ⟨?_, trivial⟩
      intro x hx
      rw [← Option.some.inj hx]
      trivial
    · rw [(sound_slot n).2 hn] at h
      simp at h
  · intro n d h
    by_cases hn : n = 14
    · unfold Slot.deadline? at h
      rw [(sound_slot n).1 hn] at h
      rw [← Option.some.inj h]
      decide +kernel
    · unfold Slot.deadline? at h
      rw [(sound_slot n).2 hn] at h
      simp at h
  · intro n d e h he
    have hl : ∀ n : LineNumber, pulseOf n sound = none := by decide +kernel
    have hp := hl n
    unfold pulseOf at hp
    rw [h] at hp
    simp [he] at hp

theorem witness_InputsSound : InputsSound quiet := by
  have h : ∀ n : InputNumber, (quiet.inputs[n].candidate = none ∨ quiet.inputs[n].candidate = some { level := true, count := 1 }
      ∧ quiet.inputs[n].qualified = some false ∧ quiet.inputs[n].filter = 2) ∧ quiet.inputs[n].edge = none := by decide +kernel
  intro n
  refine ⟨fun c hc => ?_, fun e he => ?_⟩
  · rcases (h n).1 with h | ⟨h, hq, hf⟩ <;> rw [h] at hc
    · simp at hc
    · rw [hq, hf, ← Option.some.inj hc]
      decide
  · rw [(h n).2] at he
    simp at he

/-- The three invariants where slot 14 alone holds an arming. -/
theorem holding_sound (a : Arming) (hf : a.phaseFits = true) (hp : a.positive)
    (hd : ∀ d, a.deadline? = some d → (1000 : Time) ≤ d) :
    DeadlineListSound (holding a busy) ∧ SlotStatesSound (holding a busy) ∧ DeadlinesAhead (holding a busy) := by
  have hb : ∀ n : SlotNumber, busy.slots[n].arming = none := by decide +kernel
  have h14 : (holding a busy).slots[(14 : SlotNumber)].arming = some a := by
    rw [holding, State.putArming_slot]
  have hne : ∀ n : SlotNumber, n ≠ 14 → (holding a busy).slots[n].arming = none := by
    intro n hn
    rw [holding, State.putArming_slot_ne _ _ hn, hb]
  have hl : ∀ n : LineNumber, pulseOf n busy = none := by decide +kernel
  have hlist : (holding a busy).deadlineList = if a.deadline?.isSome then [14] else [] := by
    have : (holding a busy).deadlineList = relist (holding a busy).slots 14 [] := rfl
    rw [this, relist, Slot.deadline?, h14]
    rfl
  refine ⟨⟨?_, fun n => ?_⟩, fun n b h => ?_, fun n b h => ?_, fun n d h => ?_, fun n d e h he => ?_⟩
  · rw [hlist]
    split <;> simp
  · rw [hlist, Slot.deadline?]
    by_cases hn : n = 14
    · rw [hn, h14]
      cases h : a.deadline? <;> simp [h]
    · rw [hne n hn]
      split <;> simp [hn]
  · by_cases hn : n = 14
    · rw [hn, h14] at h
      rwa [← Option.some.inj h]
    · rw [hne n hn] at h
      simp at h
  · by_cases hn : n = 14
    · rw [hn, h14] at h
      rwa [← Option.some.inj h]
    · rw [hne n hn] at h
      simp at h
  · rw [Slot.deadline?] at h
    by_cases hn : n = 14
    · rw [hn, h14] at h
      exact hd d h
    · rw [hne n hn] at h
      simp at h
  · have hp := hl n
    unfold pulseOf at hp
    have h' : busy.lines[n].drive = some d := h
    rw [h'] at hp
    simp [he] at hp

/-- A slot anchored ABS whose deadline of 1,001 a step by one tick reaches exactly. -/
def reachable : State := holding { arming .once (.armed 1001) with anchoring := .abs } busy

/-- R82: a step of 9 ticks between the offers to slots 3 and 14 leaves both with the same edge time; the step moves the
timeout that slot 3 has started and not the one that slot 14 starts after it (R17). -/
theorem test_step_between_offers :
    let s := run (.edge 5 .slotsFirst) (run (.stepTime { blank with timeValue := 9 }) (run (.edge 5 (.offersBelow 14)) twoWaiting))
    s.time.now = 1009 ∧ s.slots[3].report.fields.time = 1000 ∧ s.slots[14].report.fields.time = 1000
      ∧ s.slots[3].deadline? = some 1059 ∧ s.slots[14].deadline? = some 1050 := by
  decide +kernel

/-- R46: a step of 60 ticks passes the timeout that slot 14 starts from the edge time, so its TIMEOUT follows its CAPTURE at
once, late; and a step that ends slot 14 by its own timeout leaves nothing for the offer (R82). -/
theorem test_step_past_a_deadline_of_the_edge :
    let step (s : State) := run (.edge 5 .slotsFirst) (run (.stepTime { blank with timeValue := 60 }) s)
    let s := step (run (.edge 5 (.offersBelow 14)) twoWaiting)
    let abs := { arming (.waitEdge edgePart) (.waiting (some 1010)) with anchoring := .abs }
    let t := step (run (.edge 5 (.offersBelow 14)) (twoWaiting.putArming 14 (some abs)))
    let late : ReportFields :=
      { event := some .timeout, time := 1060, tag := 0xAB, count := 2, flags := { late := true, final := true } }
    (s.slots[14].arming = none ∧ s.slots[14].report.fields = late)
      ∧ (t.slots[14].arming = none ∧ t.slots[14].report.fields.event = some .timeout ∧ t.slots[14].report.fields.count = 1) := by
  decide +kernel

/-- R8: a step refused between two offers changes nothing, and the offers are still to come. -/
theorem test_refused_step_between_offers :
    let s := run (.edge 5 (.offersBelow 14)) twoWaiting
    let t := run (.stepTime { blank with timeValue := -1001 }) s
    t.held.map (·.answer.status) = some .timeRange ∧ t.slots = s.slots ∧ t.inputs = s.inputs ∧ t.writer = s.writer := by
  decide +kernel

theorem witness_StepTakesWhatItReaches :
    Arrives reachable ∧ StepsBy (.stepTime { blank with timeValue := 1 }) 1 { blank with timeValue := 1 } reachable
      ∧ StepsBy (.setTime { blank with timeValue := 1001 }) 1 { blank with timeValue := 1001 } reachable
      ∧ StepFits 1 reachable
      ∧ DeadlineListSound reachable ∧ SlotStatesSound reachable ∧ DeadlinesAhead reachable := by
  refine ⟨by decide +kernel, .inl ⟨rfl, by decide⟩, .inr ⟨rfl, by decide +kernel⟩, ⟨by decide +kernel, ?_, ?_⟩,
    holding_sound _ rfl ⟨?_, trivial⟩ ?_⟩
  · intro n a d h hm _
    by_cases hn : n = 14
    · subst hn
      rw [reachable, holding, State.putArming_slot] at h
      rw [← Option.some.inj h] at hm
      rcases hm with hm | ⟨g, hm⟩ <;> simp [arming] at hm
    · have hb : ∀ n : SlotNumber, busy.slots[n].arming = none := by decide +kernel
      rw [reachable, holding, State.putArming_slot_ne _ _ hn, hb] at h
      simp at h
  · intro n e h
    have hl : ∀ n : LineNumber, pulseOf n reachable = none := by decide +kernel
    rw [hl] at h
    simp at h
  · intro x hx
    rw [← Option.some.inj hx]
    trivial
  · intro d h
    rw [← Option.some.inj h]
    decide

/-- R14, R15: the reached slot performs its action and reports at the new device time, and value B counts it; a pulse end
still due is taken within the step (R13). -/
theorem test_step_takes_what_it_reaches :
    let due : OutputLine := { lowLine false with drive := some { level := true, pulseEnd := some { time := 1000, level := false } } }
    let s : State := { reachable with lines := reachable.lines.set 0 due }
    let t := run (.stepTime { blank with timeValue := 1 }) s
    t.slots[14].arming = none ∧ t.slots[14].report.fields.time = 1001 ∧ t.outputPin 2 = some true
      ∧ t.outputPin 0 = some false ∧ t.held.map (·.answer.valueB) = some 1 := by
  decide +kernel

/-- A slot held with no tick left. -/
theorem witness_ReleaseTakesWhatIsDue :
    Arrives (suspended 0) ∧ Unflagged { blank with groupMask := 2 } ∧ ReleaseFits { blank with groupMask := 2 } (suspended 0)
      ∧ DeadlineListSound (suspended 0) ∧ SlotStatesSound (suspended 0) ∧ DeadlinesAhead (suspended 0) := by
  refine ⟨by decide +kernel, by decide, ?_, holding_sound _ rfl ⟨?_, trivial⟩ ?_⟩
  · intro n k hh hk
    by_cases hn : n = 14
    · subst hn
      have h14 : leftOf (suspended 0) 14 = some 0 := by decide +kernel
      rw [h14] at hk
      rw [← Option.some.inj hk]
      decide +kernel
    · have hb : ∀ n : SlotNumber, busy.slots[n].arming = none := by decide +kernel
      rw [leftOf, suspended, holding, State.putArming_slot_ne _ _ hn, hb] at hk
      simp at hk
  · intro x hx
    rw [← Option.some.inj hx]
    trivial
  · intro d h
    simp [arming, Arming.deadline?] at h

/-- R38 part 3: the slot is taken within the RELEASE, without LATE, and both counts are 1. -/
theorem test_release_takes_a_remaining_time_of_0 :
    let t := run (.release { blank with groupMask := 2 }) (suspended 0)
    t.slots[14].arming = none ∧ t.slots[14].report.fields.flags = { final := true } ∧ t.outputPin 2 = some true
      ∧ t.held.map (fun h => (h.answer.valueA, h.answer.valueB)) = some (1, 1) := by
  decide +kernel

/-- A step by one tick that moves a deadline of 1,001 to 1,002, one ahead of the new device time. -/
theorem witness_StepTimeMovesDeadlinesAndPulseEnds :
    Arrives sound ∧ Unflagged { blank with timeValue := 1 } ∧ ({ blank with timeValue := 1 } : Request).timeValue.toInt = 1
      ∧ StepFits 1 sound
      ∧ ∀ (n : SlotNumber) d x, MovedTo sound.slots[n] 1 d → sound.slots[n].arming ≠ none → d = some x →
          shifted sound.time.now 1 < x := by
  have hl : ∀ n : LineNumber, pulseOf n sound = none := by decide +kernel
  have hd : deadlineOf sound.slots[(14 : SlotNumber)] = some 1001 := by decide +kernel
  have hnow : sound.time.now = 1000 := by decide +kernel
  refine ⟨by decide +kernel, by decide, by decide, ⟨by rw [hnow]; decide, ?_, ?_⟩, ?_⟩
  · intro n a d h _ hdl
    by_cases hn : n = 14
    · subst hn
      rw [hd] at hdl
      rw [← Option.some.inj hdl]
      decide
    · rw [(sound_slot n).2 hn] at h
      simp at h
  · intro n e h
    rw [hl] at h
    simp at h
  · intro n d x hm ha hx
    by_cases hn : n = 14
    · subst hn
      have h := (hm _ ((sound_slot 14).1 rfl)).1 (.inl rfl)
      rw [hd] at h
      rw [hx] at h
      rw [Option.some.inj h, hnow]
      decide
    · exact absurd ((sound_slot n).2 hn) ha

theorem witness_OnlyArmChangesGenerations_TrafficLeavesTheTimersAlone :
    Instr.reset ≠ .powerOnReset ∧ (encodeRecord { kind := 15, body := blank })[0] ≠ 2
      ∧ (encodeRecord { kind := 2, body := blank })[0] ≠ 15
      ∧ ((5 : BitVec 32).toNat = 0 ∨ 4 < (5 : BitVec 32).toNat)
      ∧ Instr.pause ∈ [Instr.start, .pause, .resume, .statusRead, .fetchIssue, .completionWriteIssue, .moderationDelayExpiry] := by
  decide

end Sys2Proof.Tests
end

section
/-! # Device time: READ_TIME

The engine's way from the arrival of a record to the held response, in the words of the obligations, and the statement about
READ_TIME (R7). -/

namespace Sys2Proof.Proofs
open Sys2Proof.Machine Sys2Proof.Claims

/-! ## The request path in the words of the obligations -/

/-- Case 3 of R136. -/
theorem arrive_of_arrives {s : State} (h : Arrives s) (take : State → State) : s.arrive take = take (taken s) := by
  obtain ⟨hflight, hkept⟩ := h
  obtain ⟨i, hi⟩ := Option.isSome_iff_exists.1 hflight
  exact State.arrive_taken hi hkept take

theorem holdResponse_eq_responding (kind : ResponseKind) (r : Request) (a : Answer) (s : State) :
    s.holdResponse kind r a = responding kind r a s := rfl

theorem plain_eq_unnamed (status : Status) (a b : BitVec 64) : Answer.plain status a b = unnamed status a b false := rfl

theorem refusal_eq_unnamed (status : Status) : Answer.refusal status = unnamed status 0 0 false := rfl

/-! ## The kinds whose validation ends with step 2 -/

/-- The kinds with no meaningful flag (R140), no slot (R139), no field with a range and no output line (R141). -/
def endsAtStep2 : RequestKind → Bool
  | .nop | .fence | .cancelGroup | .hold | .release | .readTime | .setTime | .clearTrip | .forceTrip => true
  | _ => false

theorem step2Fails_of_endsAtStep2 {k : RequestKind} (hk : endsAtStep2 k = true) {r : Request} (hr : Clean r) :
    step2Fails k r = (r.flags != 0) := by
  obtain ⟨h47, h56⟩ := hr
  have hmask : meaningfulFlags k r = 0 := by
    cases k <;> simp [endsAtStep2] at hk <;> rfl
  have hstage : (k == .stage) = false := by
    cases k <;> simp [endsAtStep2] at hk <;> rfl
  have hall : r.flags &&& ~~~ (0 : BitVec 16) = r.flags := BitVec.and_allOnes
  rw [step2Fails, h47, h56, hmask, hstage, hall]
  simp

theorem laterSteps_pass_of_endsAtStep2 {k : RequestKind} (hk : endsAtStep2 k = true) (r : Request) (s : State) :
    k.namesSlot = false ∧ step4Fails k r = false ∧ step5Fails k r s = false := by
  cases k <;> simp [endsAtStep2] at hk <;> exact ⟨rfl, rfl, rfl⟩

theorem refusal?_of_endsAtStep2 {k : RequestKind} (hk : endsAtStep2 k = true) {r : Request} (hr : Clean r) (s : State) :
    refusal? k r s = if r.flags = 0 then none else some .badField := by
  obtain ⟨hslot, h4, h5⟩ := laterSteps_pass_of_endsAtStep2 hk r s
  by_cases hf : r.flags = 0 <;>
    simp [refusal?, step2Fails_of_endsAtStep2 hk hr, hslot, h4, h5, hf]

/-- Without a flag the owning block is asked, and its answer is the response. -/
theorem engineTakes_of_flags_eq_zero {k : RequestKind} (hk : endsAtStep2 k = true) {r : Request} (hr : Clean r)
    (hf : r.flags = 0) (owner : Request → State → State × Answer) (s : State) :
    engineTakes k r owner s = responding (responseKind k (owner r s).2) r (owner r s).2 (owner r s).1 := by
  have hvalid : refusal? k r s = none := by rw [refusal?_of_endsAtStep2 hk hr, if_pos hf]
  rw [engineTakes_valid hvalid, holdResponse_eq_responding]

/-- With a flag the owning block is not asked. -/
theorem engineTakes_of_flags_ne_zero {k : RequestKind} (hk : endsAtStep2 k = true) {r : Request} (hr : Clean r)
    (hf : r.flags ≠ 0) (owner : Request → State → State × Answer) (s : State) :
    engineTakes k r owner s = responding .ordinary r (unnamed .badField 0 0 false) s := by
  have hrefused : refusal? k r s = some .badField := by rw [refusal?_of_endsAtStep2 hk hr, if_neg hf]
  rw [engineTakes_refused hrefused, holdResponse_eq_responding, refusal_eq_unnamed]

/-! ## READ_TIME (R7) -/

theorem exec_readTime (r : Request) (s : State) :
    exec (.readTime r) s = .next (s.arrive (engineTakes .readTime r takeReadTime)) := rfl

theorem takeReadTime_eq (r : Request) (s : State) :
    takeReadTime r s = (s, unnamed .ok s.time.now (BitVec.ofNat 64 s.time.divider) false) := by
  rw [takeReadTime, plain_eq_unnamed]

theorem taken_time (s : State) : (taken s).time = s.time := rfl

theorem responseKind_readTime (a : Answer) : responseKind .readTime a = .ordinary := rfl

/-- Settles O6: the record is taken, and validation lets it through exactly when no flag is set; taking it leaves the time
base as it is, so the answer holds device time and the divider of the state before. -/
theorem readTimeAnswersDeviceTime : Obligations.ReadTimeAnswersDeviceTime := by
  intro r s harrives hclean
  rw [exec_readTime, arrive_of_arrives harrives]
  constructor
  · intro hf
    rw [engineTakes_of_flags_eq_zero rfl hclean hf, takeReadTime_eq, responseKind_readTime, taken_time]
  · intro hf
    rw [engineTakes_of_flags_ne_zero rfl hclean hf]

end Sys2Proof.Proofs
end

section
/-! # The trip unit: FORCE_TRIP and CLEAR_TRIP

The packed value of 11.5 as the number the specification gives, the answers of the trip unit in the words of the
obligations, and the statements about its two requests (R107, R111, R112). -/

namespace Sys2Proof.Proofs
open Sys2Proof.Machine Sys2Proof.Claims

/-! ## Value A of the trip answers (11.5) -/

/-- Fields set side by side: the upper one weighs `2 ^ w`. -/
theorem toNat_append_eq_add {v w : Nat} (x : BitVec v) (y : BitVec w) :
    (x ++ y).toNat = y.toNat + 2 ^ w * x.toNat := by
  rw [BitVec.toNat_append, ← Nat.shiftLeft_add_eq_or_of_lt y.isLt, Nat.shiftLeft_eq, Nat.mul_comm, Nat.add_comm]

theorem toNat_causeKind_code (k : CauseKind) : k.code.toNat = causeNumber k := by
  cases k <;> rfl

theorem toNat_causeMask (t : TripUnit) : t.causeMask.toNat = causesNumber t := by
  have hbit (b : Bool) (n : Nat) : bit b n = 2 ^ n * b.toNat := by cases b <;> simp
  simp only [TripUnit.causeMask, causesNumber, toNat_append_eq_add, BitVec.toNat_ofBool, hbit, BitVec.toNat_ofNat]
  omega

theorem tripValue_eq_tripNumber (t : TripUnit) (record : TripRecord) :
    tripValue t.causeMask record = tripNumber t record := by
  apply BitVec.eq_of_toNat_eq
  have hvalue : (tripValue t.causeMask record).toNat
      = causesNumber t + 2 ^ 16 * causeNumber record.kind + 2 ^ 24 * record.index.toNat := by
    simp only [tripValue, toNat_append_eq_add, toNat_causeMask, toNat_causeKind_code, BitVec.toNat_ofNat]
    omega
  rw [tripNumber, BitVec.toNat_ofNat, ← hvalue, Nat.mod_eq_of_lt (tripValue t.causeMask record).isLt]

theorem tripAnswer_eq_unnamed (status : Status) (t : TripUnit) (record : TripRecord) (wasClear : Bool) :
    tripAnswer status t.causeMask record wasClear = unnamed status (tripNumber t record) record.time wasClear := by
  rw [tripAnswer, tripValue_eq_tripNumber, unnamed]

/-! ## The two requests on their way -/

theorem taken_trip (s : State) : (taken s).trip = s.trip := rfl

theorem exec_forceTrip_of_arrives {s : State} (h : Arrives s) (r : Request) :
    exec (.forceTrip r) s = .next (engineTakes .forceTrip r takeForceTrip (taken s)) :=
  congrArg Host.Outcome.next (arrive_of_arrives h _)

theorem exec_clearTrip_of_arrives {s : State} (h : Arrives s) (r : Request) :
    exec (.clearTrip r) s = .next (engineTakes .clearTrip r takeClearTrip (taken s)) :=
  congrArg Host.Outcome.next (arrive_of_arrives h _)

theorem responseKind_forceTrip (a : Answer) : responseKind .forceTrip a = .ordinary := rfl

theorem responseKind_clearTrip (a : Answer) : responseKind .clearTrip a = .ordinary := rfl

/-! ## FORCE_TRIP (R107) -/

theorem takeForceTrip_eq (r : Request) (s : State) :
    takeForceTrip r s =
      (s.raise .forced,
        unnamed .ok (tripNumber (s.raise .forced).trip (s.raise .forced).trip.record) (s.raise .forced).trip.record.time
          (s.trip.state == .clear)) := by
  rw [takeForceTrip, tripAnswer_eq_unnamed]

theorem forceTripRaisesTheForcedCause : ForceTripRaisesTheForcedCause := by
  intro r s harrives hclean
  rw [exec_forceTrip_of_arrives harrives]
  constructor
  · intro hf
    rw [engineTakes_of_flags_eq_zero rfl hclean hf, takeForceTrip_eq, responseKind_forceTrip, taken_trip]
  · intro hf
    rw [engineTakes_of_flags_ne_zero rfl hclean hf]

/-! ## CLEAR_TRIP (R111, R112): the three rows of its table -/

theorem takeClearTrip_of_clear {s : State} (h : s.trip.state = .clear) (r : Request) :
    takeClearTrip r s = (s, unnamed .ok (tripNumber s.trip s.trip.record) s.trip.record.time true) := by
  rw [takeClearTrip, if_pos h, tripAnswer_eq_unnamed]

theorem takeClearTrip_of_active {s : State} (h : s.trip.state = .tripped) (hi : s.trip.inputCauses ≠ 0) (r : Request) :
    takeClearTrip r s = (s, unnamed .tripActive (tripNumber s.trip s.trip.record) s.trip.record.time false) := by
  rw [takeClearTrip, if_neg (by simp [h]), if_pos hi, tripAnswer_eq_unnamed]

theorem takeClearTrip_of_quiet {s : State} (h : s.trip.state = .tripped) (hi : s.trip.inputCauses = 0) (r : Request) :
    takeClearTrip r s =
      (s.withTrip s.trip.cleared, unnamed .ok (tripNumber s.trip s.trip.record) s.trip.record.time false) := by
  rw [takeClearTrip, if_neg (by simp [h]), if_neg (by simp [hi]), tripAnswer_eq_unnamed]

/-- With no input cause active, no cause is left. -/
theorem cleared_of_quiet {t : TripUnit} (hi : t.inputCauses = 0) :
    t.cleared =
      { state := .clear, inputCauses := 0, guardCause := false, faultCause := false, forcedCause := false,
        record := t.record } := by
  rw [TripUnit.cleared, hi]

/-- What the trip unit makes of a record without a flag is the response and the state that holds it. -/
theorem exec_clearTrip_of_takeClearTrip {r : Request} {s t : State} {a : Answer} (harrives : Arrives s) (hclean : Clean r)
    (hf : r.flags = 0) (htake : takeClearTrip r (taken s) = (t, a)) :
    exec (.clearTrip r) s = .next (responding .ordinary r a t) := by
  rw [exec_clearTrip_of_arrives harrives, engineTakes_of_flags_eq_zero rfl hclean hf, htake, responseKind_clearTrip]

theorem clearTripNeedsQuietInputs : ClearTripNeedsQuietInputs := by
  intro r s harrives hclean
  refine ⟨fun hf hstate => ?clear, fun hf hstate hinputs => ?active, fun hf hstate hinputs => ?quiet,
    fun hf => ?flagged⟩
  case clear =>
    exact exec_clearTrip_of_takeClearTrip harrives hclean hf (takeClearTrip_of_clear (s := taken s) hstate r)
  case active =>
    exact exec_clearTrip_of_takeClearTrip harrives hclean hf (takeClearTrip_of_active (s := taken s) hstate hinputs r)
  case quiet =>
    rw [← cleared_of_quiet hinputs]
    exact exec_clearTrip_of_takeClearTrip harrives hclean hf (takeClearTrip_of_quiet (s := taken s) hstate hinputs r)
  case flagged =>
    rw [exec_clearTrip_of_arrives harrives, engineTakes_of_flags_ne_zero rfl hclean hf]

/-- Settles O32: both records are taken and stopped by validation exactly when a flag is set; else FORCE_TRIP answers what
its raise leaves, and CLEAR_TRIP goes by the trip state and then by the input causes. -/
theorem tripRequestsFollowTheirTable : Obligations.TripRequestsFollowTheirTable :=
  ⟨forceTripRaisesTheForcedCause, clearTripNeedsQuietInputs⟩

end Sys2Proof.Proofs
end

section
/-! # The submission ring and the request engine

Steps 2 to 5 of validation in the words of the tables of R140 and R141, a record written and read back, and the statements
about SUBMIT_TAIL, NOP and the order of validation (R133, R139 to R143). -/

namespace Sys2Proof.Proofs
open Sys2Proof.Machine Sys2Proof.Claims

/-! ## The records on their way to the request engine -/

/-- Each request row is the arrival of its record, taken by the owning block of its kind (R136, R138). -/
theorem exec_eq_arrive_of_requestOf {c : Instr} {k : RequestKind} {r : Request} (h : requestOf c = some (k, r)) (s : State) :
    exec c s = .next (s.arrive (engineTakes k r (owner k))) := by
  cases c <;> cases h <;> rfl

theorem exec_of_requestOf {c : Instr} {k : RequestKind} {r : Request} {s : State} (h : requestOf c = some (k, r))
    (harrives : Arrives s) : exec c s = .next (engineTakes k r (owner k) (taken s)) := by
  rw [exec_eq_arrive_of_requestOf h, arrive_of_arrives harrives]

theorem exec_fetchDataArrives_of_arrives {s : State} (h : Arrives s) (data : Image64) :
    exec (.fetchDataArrives .own data) s = .next (takeRecord (decodeRecord data) (taken s)) :=
  congrArg Host.Outcome.next (arrive_of_arrives h _)

/-- A record written to memory is read back as it was (R165). -/
theorem decodeRecord_encodeRecord (record : Record) : decodeRecord (encodeRecord record) = record := by
  obtain ⟨kind, body⟩ := record
  cases body
  simp only [decodeRecord, encodeRecord, read16, read32, read64, Vector.getElem_mk, List.getElem_toArray,
    List.getElem_cons_zero, List.getElem_cons_succ]
  simp only [bytes16, bytes32, bytes64]

theorem takeRecord_of_badKind {record : Record} (h : 16 < record.kind.toNat) (s : State) :
    takeRecord record s = responding .ordinary record.body (unnamed .badKind 0 0 false) s := by
  rw [takeRecord, ofCode?_eq_none h, holdResponse_eq_responding, refusal_eq_unnamed]

/-! ## Step 2: flags and reserved bytes (R140) -/

/-- The mask of the sixteen flag bits that holds the bits of a list. -/
def maskOf (bits : List Nat) : BitVec 16 := bits.foldr (fun b m => BitVec.twoPow 16 b ||| m) 0

theorem getLsbD_maskOf {b : Nat} (hb : b < 16) (bits : List Nat) : (maskOf bits).getLsbD b = true ↔ b ∈ bits := by
  induction bits with
  | nil => simp [maskOf]
  | cons i bits ih =>
    have hbit : i < 16 ∧ i = b ↔ b = i := by omega
    rw [maskOf, List.foldr_cons, ← maskOf, BitVec.getLsbD_or, BitVec.getLsbD_twoPow, Bool.or_eq_true, ih,
      Bool.and_eq_true, decide_eq_true_eq, decide_eq_true_eq, hbit, List.mem_cons]

/-- A code that names no mode leaves the flags of all modes meaningful. -/
theorem flagBits_arm_of_noMode {r : Request} (h : r.mode.toNat = 0 ∨ 4 < r.mode.toNat) :
    flagBits .arm r = [0, 1, 2, 4, 5, 9, 10] := by
  simp only [flagBits]
  split
  case h_5 => rfl
  all_goals omega

/-- The mask of the meaningful flags is the mask of the table's bits. -/
theorem meaningfulFlags_eq_maskOf (k : RequestKind) (r : Request) : meaningfulFlags k r = maskOf (flagBits k r) := by
  cases k
  case stage =>
    by_cases h : r.flags.getLsbD 7 = true
    · rw [meaningfulFlags, flagBits, stageAction, if_pos h, if_pos h]
      rfl
    · rw [meaningfulFlags, flagBits, stageAction, if_neg h, if_neg h]
      rfl
  case arm =>
    rcases Mode.ofCode?_cases r.mode with ⟨hm, ho⟩ | ⟨hm, ho⟩ | ⟨hm, ho⟩ | ⟨hm, ho⟩ | ⟨hm, ho⟩
    case inr.inr.inr.inr =>
      simp only [meaningfulFlags, ho, flagBits_arm_of_noMode hm]
      rfl
    all_goals
      simp only [meaningfulFlags, flagBits, hm, ho]
      rfl
  all_goals rfl

theorem step2Fails_iff (k : RequestKind) (r : Request) : step2Fails k r = true ↔ FailsFlags k r := by
  have hmask : (r.flags &&& ~~~ meaningfulFlags k r) ≠ 0
      ↔ ∃ b, b < 16 ∧ r.flags.getLsbD b = true ∧ b ∉ flagBits k r := by
    rw [flagsOutside_ne_zero]
    refine exists_congr fun b => and_congr_right fun hb => and_congr_right fun _ => ?_
    rw [meaningfulFlags_eq_maskOf, ← getLsbD_maskOf hb, Bool.not_eq_true]
  simp only [step2Fails, FailsFlags, Bool.or_eq_true, Bool.and_eq_true, bne_iff_ne, hmask, beq_iff_eq, stagePeriod,
    stageAction, stageLimit, Bool.not_eq_true', Bool.or_eq_false_iff, or_assoc, and_assoc]

/-! ## Step 3: the slot (R139) -/

theorem step3Fails_iff (k : RequestKind) (r : Request) :
    (k.namesSlot && (slot? r).isNone) = true ↔ FailsSlot k r := by
  have hkind : k.namesSlot = true ↔ k ∈ [RequestKind.arm, .cancel, .stage, .renew, .querySlot] := by
    cases k <;> decide
  have hslot : (slot? r).isNone = true ↔ 256 ≤ r.slot.toNat := by
    simp [slot?]
  rw [Bool.and_eq_true, hkind, hslot, FailsSlot]

/-! ## Step 4: the fields (R141) -/

theorem readsLine_iff (k : RequestKind) (r : Request) : readsLine k r = true ↔ CarriesAction k r := by
  cases k <;> simp [readsLine, CarriesAction, hasAction, stageAction]

theorem actionKind?_eq_none (r : Request) : actionKind? r = none ↔ BadAction r := by
  have hwidth (k : ActionKind) :
      (if decide (1 ≤ r.pulseWidth.toNat ∧ r.pulseWidth.toNat < 2 ^ 24) = true then some k else none) = none
        ↔ r.pulseWidth.toNat = 0 ∨ 2 ^ 24 ≤ r.pulseWidth.toNat := by
    rw [ite_eq_right_iff, decide_eq_true_eq]
    simp only [reduceCtorEq, imp_false]
    omega
  unfold actionKind? BadAction
  split
  case h_4 | h_5 =>
    rw [hwidth]
    omega
  case h_6 =>
    simp only [imp_false] at *
    exact iff_of_true trivial (by omega)
  all_goals exact iff_of_false nofun (by omega)

theorem input?_eq_none (b : Byte) : input? b = none ↔ 7 < b.toNat := by
  simp only [input?, dite_eq_right_iff, reduceCtorEq, imp_false, Nat.not_lt]
  exact Iff.rfl

theorem group?_eq_none (b : Byte) : group? b = none ↔ 15 < b.toNat := by
  simp only [group?, dite_eq_right_iff, reduceCtorEq, imp_false, Nat.not_lt]
  exact Iff.rfl

theorem reportPolicy_eq_none (b : Byte) : ReportPolicy.ofCode? b = none ↔ 2 < b.toNat := by
  rcases ReportPolicy.ofCode?_cases b with ⟨hb, h⟩ | ⟨hb, h⟩ | ⟨hb, h⟩ | ⟨hb, h⟩ <;> simp [h, hb]

theorem latePolicy_eq_none (b : Byte) : LatePolicy.ofCode? b = none ↔ 1 < b.toNat := by
  rcases LatePolicy.ofCode?_cases b with ⟨hb, h⟩ | ⟨hb, h⟩ | ⟨hb, h⟩ <;> simp [h, hb]

theorem edgeSelect_eq_none (b : Byte) : EdgeSelect.ofCode? b = none ↔ b.toNat = 0 ∨ 3 < b.toNat := by
  rcases EdgeSelect.ofCode?_cases b with ⟨hb, h⟩ | ⟨hb, h⟩ | ⟨hb, h⟩ | ⟨hb, h⟩ <;> simp [h, hb]

theorem tripLevel_eq_none (b : Byte) : TripLevel.ofCode? b = none ↔ 2 < b.toNat := by
  rcases TripLevel.ofCode?_cases b with ⟨hb, h⟩ | ⟨hb, h⟩ | ⟨hb, h⟩ | ⟨hb, h⟩ <;> simp [h, hb]

theorem armFieldFails_iff (r : Request) :
    armFieldFails r = true ↔
      r.mode.toNat = 0 ∨ 4 < r.mode.toNat ∨ 2 < r.reportPolicy.toNat ∨ 15 < r.group.toNat
        ∨ (r.mode.toNat = 2 ∧ (r.period = 0 ∨ 1 < r.latePolicy.toNat))
        ∨ (r.mode.toNat = 3 ∧ (r.period = 0 ∨ r.grace = 0))
        ∨ (r.mode.toNat = 4 ∧ (r.timeValue ≠ 0 ∨ 7 < r.inputLine.toNat ∨ r.edgeSelect.toNat = 0 ∨ 3 < r.edgeSelect.toNat
          ∨ (r.flags.getLsbD 9 = true ∧ r.grace = 0) ∨ (r.flags.getLsbD 10 = true ∧ r.delay = 0))) := by
  simp only [armFieldFails, Bool.or_eq_true, Option.isNone_iff_eq_none, reportPolicy_eq_none, group?_eq_none]
  rcases Mode.ofCode?_cases r.mode with ⟨hm, ho⟩ | ⟨hm, ho⟩ | ⟨hm, ho⟩ | ⟨hm, ho⟩ | ⟨hm, ho⟩
  case inr.inr.inr.inr => exact iff_of_true (by simp [ho]) (by omega)
  all_goals
    simp [ho, hm, latePolicy_eq_none, input?_eq_none, edgeSelect_eq_none, hasTimeout, hasEdgeDelay, or_assoc]

theorem step4Fails_iff (k : RequestKind) (r : Request) : step4Fails k r = true ↔ FailsField k r := by
  unfold step4Fails FailsField
  rw [Bool.or_eq_true, Bool.and_eq_true, readsLine_iff, Option.isNone_iff_eq_none, actionKind?_eq_none]
  refine or_congr_right ?_
  cases k
  case arm => simp [armFieldFails_iff]
  case stage => simp [stagePeriod]
  case configInput => simp [input?_eq_none, tripLevel_eq_none]
  case stepTime => simp
  all_goals simp

/-! ## Step 5: the output line (R141) -/

theorem step5Fails_iff (k : RequestKind) (r : Request) (s : State) : step5Fails k r s = true ↔ FailsLine k r s := by
  rw [step5Fails, FailsLine, Bool.and_eq_true, readsLine_iff]
  refine and_congr_right fun _ => ?_
  by_cases h : r.outputLine.toNat < 16
  · rw [line?_eq_some (n := ⟨_, h⟩) rfl]
    simp only [State.lineEnabled, Bool.not_eq_true', Option.isSome_eq_false_iff, Option.isNone_iff_eq_none]
    constructor
    · rintro hdrive n hn
      have : n = ⟨_, h⟩ := Fin.ext hn.symm
      rwa [this]
    · exact fun hall => hall _ rfl
  · have hnone : line? r.outputLine = none := dif_neg h
    rw [hnone]
    exact iff_of_true rfl fun n hn => absurd (hn ▸ n.isLt) h

/-! ## Validation in the words of the tables (R139) -/

theorem refusal?_of_failsFlags {k : RequestKind} {r : Request} (h2 : FailsFlags k r) (s : State) :
    refusal? k r s = some .badField := by
  rw [refusal?, if_pos ((step2Fails_iff k r).2 h2)]

theorem refusal?_of_failsSlot {k : RequestKind} {r : Request} (h2 : ¬ FailsFlags k r) (h3 : FailsSlot k r) (s : State) :
    refusal? k r s = some .badSlot := by
  rw [refusal?, if_neg (mt (step2Fails_iff k r).1 h2), if_pos ((step3Fails_iff k r).2 h3)]

theorem refusal?_of_failsField {k : RequestKind} {r : Request} (h2 : ¬ FailsFlags k r) (h3 : ¬ FailsSlot k r)
    (h4 : FailsField k r) (s : State) : refusal? k r s = some .badField := by
  rw [refusal?, if_neg (mt (step2Fails_iff k r).1 h2), if_neg (mt (step3Fails_iff k r).1 h3),
    if_pos ((step4Fails_iff k r).2 h4)]

theorem refusal?_of_failsLine {k : RequestKind} {r : Request} {s : State} (h2 : ¬ FailsFlags k r) (h3 : ¬ FailsSlot k r)
    (h4 : ¬ FailsField k r) (h5 : FailsLine k r s) : refusal? k r s = some .badLine := by
  rw [refusal?, if_neg (mt (step2Fails_iff k r).1 h2), if_neg (mt (step3Fails_iff k r).1 h3),
    if_neg (mt (step4Fails_iff k r).1 h4), if_pos ((step5Fails_iff k r s).2 h5)]

theorem refusal?_of_valid {k : RequestKind} {r : Request} {s : State} (h : Valid k r s) : refusal? k r s = none := by
  obtain ⟨h2, h3, h4, h5⟩ := h
  rw [refusal?, if_neg (mt (step2Fails_iff k r).1 h2), if_neg (mt (step3Fails_iff k r).1 h3),
    if_neg (mt (step4Fails_iff k r).1 h4), if_neg (mt (step5Fails_iff k r s).1 h5)]

/-- Taking the record leaves the output lines as they are. -/
theorem failsLine_taken (k : RequestKind) (r : Request) (s : State) : FailsLine k r (taken s) ↔ FailsLine k r s := Iff.rfl

/-! ## The statements about the request engine (R139 to R143) -/

theorem engineTakes_of_refused {k : RequestKind} {r : Request} {s : State} {status : Status}
    (h : refusal? k r s = some status) :
    engineTakes k r (owner k) s = responding .ordinary r (unnamed status 0 0 false) s := by
  rw [engineTakes_refused h, holdResponse_eq_responding, refusal_eq_unnamed]

/-- Settles O40: each step of validation is its table, so the first table that refuses names the status; the record's bytes
are read back as written, so a code above 16 names no kind. -/
theorem validationRefusesInOrder : Obligations.ValidationRefusesInOrder := by
  intro c k r s hc harrives
  rw [exec_of_requestOf hc harrives]
  refine ⟨fun h2 => ?flags, fun h2 h3 => ?slot, fun h2 h3 h4 => ?field, fun h2 h3 h4 h5 => ?line, fun hvalid => ?valid,
    fun code hcode => ?kind⟩
  case flags => rw [engineTakes_of_refused (refusal?_of_failsFlags h2 _)]
  case slot => rw [engineTakes_of_refused (refusal?_of_failsSlot h2 h3 _)]
  case field => rw [engineTakes_of_refused (refusal?_of_failsField h2 h3 h4 _)]
  case line => rw [engineTakes_of_refused (refusal?_of_failsLine h2 h3 h4 ((failsLine_taken k r s).2 h5))]
  case valid => rw [engineTakes_valid (refusal?_of_valid (s := taken s) hvalid), holdResponse_eq_responding]
  case kind =>
    rw [exec_fetchDataArrives_of_arrives harrives, decodeRecord_encodeRecord, takeRecord_of_badKind hcode]

theorem takeNop_eq (r : Request) (s : State) : takeNop r s = (s, unnamed .ok 0 0 false) := by
  rw [takeNop, plain_eq_unnamed]

theorem responseKind_nop (a : Answer) : responseKind .nop a = .ordinary := rfl

/-- Settles O41: the validation of a NOP ends with step 2, and its owning block gives the state back as it took it. -/
theorem nopAnswersOk : Obligations.NopAnswersOk := by
  intro r s harrives hclean
  rw [exec_of_requestOf (k := .nop) rfl harrives]
  constructor
  · intro hf
    rw [engineTakes_of_flags_eq_zero rfl hclean hf, owner, takeNop_eq, responseKind_nop]
  · intro hf
    rw [engineTakes_of_flags_ne_zero rfl hclean hf]

/-! ## SUBMIT_TAIL (R133) -/

theorem exec_submitTailWrite_of_lt {v : BitVec 32} {s : State} (h : v.toNat < s.fetch.entries) :
    exec (.submitTailWrite v) s = .next { s with fetch := { s.fetch with tail := v.toNat } } :=
  congrArg Host.Outcome.next (if_pos h)

theorem exec_submitTailWrite_of_le {v : BitVec 32} {s : State} (h : s.fetch.entries ≤ v.toNat) :
    exec (.submitTailWrite v) s = .next { s with control := { s.control with tailRange := true } } :=
  congrArg Host.Outcome.next (if_neg (Nat.not_lt.2 h))

theorem toNat_readRegister_submitTail (s : State) : (s.readRegister .submitTail).toNat = s.fetch.tail % 2 ^ 32 :=
  BitVec.toNat_ofNat _ _

/-- A read of STATUS and both resets leave TAIL_RANGE clear (R117, R129, R130). -/
theorem tailRange_cleared {c : Instr} (h : c ∈ [Instr.statusRead, .reset, .powerOnReset]) (s : State) :
    ∃ t : State, exec c s = .next t ∧ t.control.tailRange = false := by
  simp only [List.mem_cons, List.not_mem_nil, or_false] at h
  obtain rfl | rfl | rfl := h
  case inl => exact ⟨_, rfl, rfl⟩
  case inr.inl => exact ⟨controllerReset s, rfl, rfl⟩
  case inr.inr => exact ⟨_, rfl, rfl⟩

/-- Settles O38: the write goes by its one comparison with E. -/
theorem submitTailIsRangeChecked : Obligations.SubmitTailIsRangeChecked := fun _ s =>
  ⟨exec_submitTailWrite_of_lt, exec_submitTailWrite_of_le, toNat_readRegister_submitTail s,
    fun _ hc => tailRange_cleared hc s⟩

end Sys2Proof.Proofs
end

section
/-! # The completion ring: COMPLETE_HEAD and FENCE

Distances on the ring, the writes of COMPLETE_HEAD that release written records (R148), and the mark that FENCE sets in the
report queue (R160). -/

namespace Sys2Proof.Proofs
open Sys2Proof.Machine Sys2Proof.Claims

/-! ## Distances on a ring (R147) -/

theorem ringDistance_lt {size : Nat} (h : 0 < size) (a b : Nat) : ringDistance size a b < size :=
  Nat.mod_lt _ h

theorem ringDistance_self (size a : Nat) : ringDistance size a a = 0 := by
  rw [ringDistance, Nat.add_sub_cancel_left, Nat.mod_self]

/-- Going on by the distance leads from one index to the other. -/
theorem add_ringDistance_mod {size a b : Nat} (ha : a < size) (hb : b < size) :
    (a + ringDistance size a b) % size = b := by
  have hsum : a + (b + size - a) = b + size := by omega
  rw [ringDistance, Nat.add_mod_mod, hsum, Nat.add_mod_right, Nat.mod_eq_of_lt hb]

/-- The index `k` entries further on is at distance `k`. -/
theorem ringDistance_add_mod {size a k : Nat} (ha : a < size) (hk : k < size) :
    ringDistance size a ((a + k) % size) = k := by
  rw [ringDistance]
  obtain hstay | hwrap := Nat.lt_or_ge (a + k) size
  · have hsum : a + k + size - a = k + size := by omega
    rw [Nat.mod_eq_of_lt hstay, hsum, Nat.add_mod_right, Nat.mod_eq_of_lt hk]
  · have hindex : (a + k) % size = a + k - size := by
      rw [Nat.mod_eq_sub_mod hwrap, Nat.mod_eq_of_lt (by omega)]
    have hsum : a + k - size + size - a = k := by omega
    rw [hindex, hsum, Nat.mod_eq_of_lt hk]

/-! ## COMPLETE_HEAD (R148) -/

theorem accepts_iff (w : CompletionWriter) (value : Nat) :
    w.accepts value = true ↔ value < w.entries
      ∧ ringDistance w.entries w.completeHead value ≤ ringDistance w.entries w.completeHead w.writeIndex :=
  decide_eq_true_iff

/-- The accepted values are those some number of written records further on than the head. -/
theorem accepts_iff_exists {w : CompletionWriter} (hhead : w.completeHead < w.entries) (value : Nat) :
    w.accepts value = true ↔ ∃ k, k ≤ ringDistance w.entries w.completeHead w.writeIndex
      ∧ value = (w.completeHead + k) % w.entries := by
  have hsize : 0 < w.entries := Nat.zero_lt_of_lt hhead
  rw [accepts_iff]
  constructor
  · rintro ⟨hvalue, hdistance⟩
    exact ⟨_, hdistance, (add_ringDistance_mod hhead hvalue).symm⟩
  · rintro ⟨k, hk, rfl⟩
    refine ⟨Nat.mod_lt _ hsize, ?_⟩
    rwa [ringDistance_add_mod hhead (hk.trans_lt (ringDistance_lt hsize _ _))]

/-- The head itself releases no record, and is accepted. -/
theorem accepts_completeHead {w : CompletionWriter} (hhead : w.completeHead < w.entries) :
    w.accepts w.completeHead = true :=
  (accepts_iff w _).2 ⟨hhead, (ringDistance_self _ _).trans_le (Nat.zero_le _)⟩

theorem exec_completeHeadWrite_of_accepts {v : BitVec 32} {s : State} (h : s.writer.accepts v.toNat = true) :
    exec (.completeHeadWrite v) s = .next { s with writer := { s.writer with completeHead := v.toNat } } :=
  congrArg Host.Outcome.next (if_pos h)

theorem exec_completeHeadWrite_of_not_accepts {v : BitVec 32} {s : State} (h : ¬ s.writer.accepts v.toNat = true) :
    exec (.completeHeadWrite v) s = .next { s with control := { s.control with headRange := true } } :=
  congrArg Host.Outcome.next (if_neg h)

/-- A write of the value held is accepted and leaves the whole state as it is. -/
theorem exec_completeHeadWrite_of_held {v : BitVec 32} {s : State} (hhead : s.writer.completeHead < s.writer.entries)
    (hv : v.toNat = s.writer.completeHead) : exec (.completeHeadWrite v) s = .next s := by
  rw [exec_completeHeadWrite_of_accepts (hv ▸ accepts_completeHead hhead), hv]

/-- A read returns the head: an index within a ring of at most 4,096 entries fits the register. -/
theorem toNat_readRegister_completeHead {s : State} (h : s.writer.completeHead < 2 ^ 32) :
    (s.readRegister .completeHead).toNat = s.writer.completeHead := by
  rw [State.readRegister, BitVec.toNat_ofNat, Nat.mod_eq_of_lt h]

theorem headRange_cleared_of_statusRead (s : State) :
    ∃ t : State, exec .statusRead s = .next t ∧ t.control.headRange = false :=
  ⟨_, rfl, rfl⟩

/-- Settles O43: the model's test is R148's comparison of two ring distances, and with the head in range it picks out the
indices that lie a number of written records further on, the head itself at distance 0 among them. -/
theorem completeHeadReleasesWrittenRecords : Obligations.CompleteHeadReleasesWrittenRecords := by
  intro v s hranges
  obtain ⟨-, -, ⟨-, hentries⟩, ⟨-, hhead⟩, -⟩ := hranges
  have htest := accepts_iff s.writer v.toNat
  exact ⟨fun h => exec_completeHeadWrite_of_accepts (htest.2 h),
    fun h => exec_completeHeadWrite_of_not_accepts (mt htest.1 h),
    htest.symm.trans (accepts_iff_exists hhead v.toNat),
    exec_completeHeadWrite_of_held hhead,
    toNat_readRegister_completeHead (by omega),
    headRange_cleared_of_statusRead s⟩

/-! ## FENCE (R160) -/

theorem takeFence_eq (r : Request) (s : State) :
    takeFence r s =
      ({ s with writer := { s.writer with fenceMark := some s.writer.queue.length } },
        unnamed .ok (BitVec.ofNat 64 s.writer.queue.length) 0 false) := by
  rw [takeFence, plain_eq_unnamed, State.withWriter]

theorem taken_writer (s : State) : (taken s).writer = s.writer := rfl

theorem responseKind_fence (a : Answer) : responseKind .fence a = .fence := rfl

/-- Settles O42: the validation of a FENCE ends with step 2, and taking the record leaves the report queue as it is, so the
mark and value A count the queue of the state before. -/
theorem fenceMarksTheQueue : Obligations.FenceMarksTheQueue := by
  intro r s harrives hclean
  rw [exec_of_requestOf (k := .fence) rfl harrives]
  constructor
  · intro hf
    rw [engineTakes_of_flags_eq_zero rfl hclean hf, owner, takeFence_eq, responseKind_fence, taken_writer]
  · intro hf
    rw [engineTakes_of_flags_ne_zero rfl hclean hf]

end Sys2Proof.Proofs
end

section
/-! # What a step can do: the changes it is made of

An expiry, an edge or a request is a chain of a few elementary changes, and a step is one of a few moves. Said once here, so
that what every step keeps is shown change by change and move by move. -/

namespace Sys2Proof.Proofs
open Sys2Proof.Machine Sys2Proof.Claims

/-! ## Elementary changes -/

/-- The elementary changes of the work that a tick, an event row and a request share. -/
inductive Act (s : State) : State → Prop
  | action (x : Option Action) : Act s (s.performAction x)
  | pulseEnd (n : LineNumber) : Act s (takePulseEnd n s)
  | pulseEnds : Act s (takePulseEnds s)
  | arming (n : SlotNumber) (a : Option Arming) : Act s (s.putArming n a)
  | event (src : Source) (o : Occurrence) (makesPending : Bool) : Act s (s.recordEvent src o makesPending)
  | raise (r : Raise) (h : ∀ n, r ≠ .input n) : Act s (s.raise r)
  | signal : Act s (signalCompletion s)
  | accept (n : InputNumber) : Act s (beginEdge n s)
  | mark (n : InputNumber) (e e' : EdgeUnderWay) (h : s.inputs[n].edge = some e) (hl : e'.level = e.level) :
      Act s (s.putEdge n e')
  | reevaluate (n : InputNumber) : Act s (s.reevaluate n)

/-- A chain of elementary changes. -/
abbrev Acts : State → State → Prop := Relation.ReflTransGen Act

/-- The elementary changes of requests: those above and the ones that few kinds of request make, an arming
and a clear one kind each. -/
inductive RequestAct (k : RequestKind) (s : State) : State → Prop
  | act {t : State} (h : Act s t) : RequestAct k s t
  | groups (r : Request) (g : GroupState) : RequestAct k s (setGroups r g s)
  | arm (hk : k = .arm) (n : SlotNumber) (sl : Slot) (hs : s.slotPending n = false) (hr : sl.report = .empty) :
      RequestAct k s (s.putSlot n sl)
  | cancel (n : SlotNumber) : RequestAct k s (cancelSlot n s)
  | configure (n : InputNumber) (filter : BitVec 8) (level : TripLevel) :
      RequestAct k s (s.putInput n (s.inputs[n].configure filter level))
  | free (c : Nat) : RequestAct k s (s.withFreeCount c)
  | fence : RequestAct k s (s.withWriter { s.writer with fenceMark := some s.writer.queue.length })
  | clear (hk : k = .clearTrip) (h : s.trip.inputCauses = 0) : RequestAct k s (s.withTrip s.trip.cleared)
  | move (d : Int) (h : stepInRange d s = true) : RequestAct k s (moveTime d s)

/-- A chain of the elementary changes of requests. -/
abbrev RequestActs (k : RequestKind) : State → State → Prop := Relation.ReflTransGen (RequestAct k)

theorem Act.single {s t : State} (h : Act s t) : Acts s t := .single h

theorem RequestAct.single {k : RequestKind} {s t : State} (h : RequestAct k s t) : RequestActs k s t := .single h

theorem Acts.request {k : RequestKind} {s t : State} (h : Acts s t) : RequestActs k s t :=
  Relation.ReflTransGen.mono (fun _ _ => RequestAct.act) _ _ h

/-- What every elementary change keeps, a chain of them keeps. -/
theorem acts_keep {R : State → State → Prop} {Inv : State → Prop} (h : ∀ s t, R s t → Inv s → Inv t) {s t : State}
    (hr : Relation.ReflTransGen R s t) (hs : Inv s) : Inv t := by
  induction hr with
  | refl => exact hs
  | tail _ hstep ih => exact h _ _ hstep ih

/-- A fold of chains is a chain. -/
theorem foldl_chain {α : Type} {R : State → State → Prop} {f : State → α → State}
    (h : ∀ s a, Relation.ReflTransGen R s (f s a)) (l : List α) (s : State) : Relation.ReflTransGen R s (l.foldl f s) := by
  induction l generalizing s with
  | nil => exact .refl
  | cons a l ih => exact (h s a).trans (ih _)

/-! ## Expiries -/

/-- The shape of the processings: an action, an arming set, an event. -/
theorem acts_processing (n : SlotNumber) (x : Option Action) (a : Option Arming) (o : Occurrence) (makesPending : Bool)
    (s : State) : Acts s (((s.performAction x).putArming n a).recordEvent (.slot n) o makesPending) :=
  ((Act.action x).single.tail (.arming n a)).tail (.event _ o makesPending)

theorem acts_put_event (n : SlotNumber) (a : Option Arming) (o : Occurrence) (makesPending : Bool) (s : State) :
    Acts s ((s.putArming n a).recordEvent (.slot n) o makesPending) :=
  (Act.arming n a).single.tail (.event _ o makesPending)

theorem guardFaultStep_acts (n : SlotNumber) (a : Arming) (g : GuardPart) (f : ReportFlags) (s : State) :
    Acts s (guardFaultStep n a g f s) := by
  unfold guardFaultStep
  dsimp only
  split
  · exact (acts_processing n _ _ _ _ s).tail (.raise _ nofun)
  · exact acts_processing n _ _ _ _ s

theorem guardWarnStep_acts (n : SlotNumber) (a : Arming) (g : GuardPart) (late early : Bool) (s : State) :
    Acts s (guardWarnStep n a g late early s) := by
  unfold guardWarnStep
  split
  · exact acts_put_event n _ _ _ s
  · exact guardFaultStep_acts n a g _ s

theorem takeExpiry_acts (n : SlotNumber) (s : State) : Acts s (takeExpiry n s) := by
  unfold takeExpiry
  split
  · exact .refl
  · rename_i a _
    split
    · exact .refl
    · exact acts_processing n _ _ _ _ s
    · unfold repeatExpiry
      split
      · exact acts_processing n _ _ _ _ s
      · exact .refl
    · unfold guardWarnExpiry
      split
      · exact guardWarnStep_acts n a _ _ _ s
      · exact .refl
    · unfold guardFaultExpiry
      split
      · exact guardFaultStep_acts n a _ _ s
      · exact .refl
    · unfold afterEdgeExpiry
      split
      · exact acts_processing n _ _ _ _ s
      · exact .refl
    · exact acts_put_event n _ _ _ s

theorem takeDue_acts (s : State) : Acts s (takeDue s) := foldl_chain (fun t n => takeExpiry_acts n t) _ s

theorem takeAtInsertion_acts (n : SlotNumber) (s : State) : Acts s (takeAtInsertion n s) := by
  unfold takeAtInsertion
  split
  · exact takeExpiry_acts n s
  · exact .refl

/-! ## Edges -/

theorem offerEdge_acts (line : InputNumber) (e : EdgeUnderWay) (n : SlotNumber) (s : State) :
    Acts s (offerEdge line e n s) := by
  rcases offerEdge_cases line e n s with ⟨-, h⟩ | ⟨a, p, -, -, ⟨-, h⟩ | ⟨d, -, h⟩⟩
  · rw [h]
  · rw [h]
    exact (acts_processing n _ _ _ _ s).trans (takeAtInsertion_acts n _)
  · rw [h]
    refine Relation.ReflTransGen.trans ?_ (takeAtInsertion_acts n _)
    rcases startDelay_cases n a p d e.time s with ⟨x, -, hx⟩ | hx
    · rw [hx]; exact (Act.arming n _).single
    · rw [hx]; exact acts_put_event n _ _ _ s

theorem offersOfEdge_acts (n : InputNumber) (bound : Fin 257) (s : State) : Acts s (offersOfEdge n bound s) := by
  unfold offersOfEdge
  split
  · exact .refl
  · rename_i e he
    exact (Act.mark n e { e with next := max e.next bound } he rfl).single.trans
      (foldl_chain (f := fun t m => offerEdge n e m t) (fun t m => offerEdge_acts n e m t) _ _)

theorem statusOfEdge_acts (n : InputNumber) (s : State) : Acts s (statusOfEdge n s) := by
  rcases statusOfEdge_cases n s with ⟨h, -⟩ | ⟨e, he, -, h⟩
  · rw [h]
  · rw [h]
    exact (Act.mark n e { e with statusDue := false } he rfl).single.tail (.reevaluate n)

theorem takeEdge_acts (n : InputNumber) (share : EdgeShare) (s : State) : Acts s (takeEdge n share s) := by
  have hbegin : Acts s (beginEdge n s) := (Act.accept n).single
  cases share with
  | slotsFirst => exact (hbegin.trans (offersOfEdge_acts n _ _)).trans (statusOfEdge_acts n _)
  | statusFirst => exact (hbegin.trans (statusOfEdge_acts n _)).trans (offersOfEdge_acts n _ _)
  | offersBelow bound => exact hbegin.trans (offersOfEdge_acts n _ _)
  | status => exact hbegin.trans (statusOfEdge_acts n _)

/-! ## The work a tick leaves due -/

theorem moderationExpiry_acts (s : State) : Acts s (moderationExpiry s) := by
  unfold moderationExpiry
  split
  · exact Act.signal.single
  · exact .refl

theorem finishTick_acts (s : State) : Acts s (finishTick s) :=
  (((takeDue_acts s).tail .pulseEnds).trans (foldl_chain (fun t n => takeEdge_acts n .slotsFirst t) _ _)).trans
    (moderationExpiry_acts _)

/-! ## Requests -/

theorem takeArm_acts (r : Request) (s : State) : RequestActs .arm s (takeArm r s).1 := by
  unfold takeArm
  split
  · rename_i n part policy group _ _ _ _
    split
    · exact .refl
    · rename_i hpending
      split
      · exact .refl
      · split
        · exact .refl
        · exact (RequestAct.arm rfl n _ (Bool.eq_false_iff.2 hpending) rfl).single.trans (takeAtInsertion_acts n _).request
  · exact .refl

theorem takeCancel_acts (r : Request) (s : State) : RequestActs .cancel s (takeCancel r s).1 := by
  unfold takeCancel
  split
  · exact .refl
  · rename_i n _
    split
    · exact .refl
    · split
      · exact .refl
      · exact (RequestAct.cancel n).single

theorem takeStage_acts (r : Request) (s : State) : RequestActs .stage s (takeStage r s).1 := by
  unfold takeStage
  split
  · exact .refl
  · rename_i n _
    split
    · exact .refl
    · split
      · exact (Act.arming n _).single.request
      · exact .refl

theorem renewGuard_acts (n : SlotNumber) (a : Arming) (g : GuardPart) (s : State) : Acts s (renewGuard n a g s).1 := by
  unfold renewGuard
  split
  · show Acts s (escalate n a g s)
    unfold escalate
    split
    · exact guardWarnStep_acts n a g _ _ s
    · exact guardFaultStep_acts n a g _ s
  · split
    · exact .refl
    · exact (Act.arming n _).single

theorem takeRenew_acts (r : Request) (s : State) : RequestActs .renew s (takeRenew r s).1 := by
  unfold takeRenew
  split
  · exact .refl
  · split
    · exact .refl
    · split
      · exact .refl
      · split
        · exact (renewGuard_acts _ _ _ s).request
        · exact .refl

theorem takeHold_acts (r : Request) (s : State) : RequestActs .hold s (takeHold r s).1 :=
  (RequestAct.groups r .held).single.trans (foldl_chain (fun _ n => (Act.arming n _).single.request) _ _)

theorem takeRelease_acts (r : Request) (s : State) : RequestActs .release s (takeRelease r s).1 := by
  unfold takeRelease
  split
  · exact ((RequestAct.groups r .running).single.trans
      (foldl_chain (fun _ n => (Act.arming n _).single.request) _ _)).trans (takeDue_acts _).request
  · exact .refl

theorem takeLine_acts (r : Request) (s : State) : RequestActs .line s (takeLine r s).1 := by
  unfold takeLine
  split
  · exact .refl
  · rename_i a _
    split
    · exact .refl
    · rename_i d hd
      split
      · exact .refl
      · rename_i htripped
        split
        · exact .refl
        · have performed : s.actionOutcome (some a) = .performed := by
            simp [State.actionOutcome, hd, htripped, -Fin.getElem_fin]
          have perform : s.performAction (some a) = s.putDrive a.line (some (d.apply a.kind s.time.now)) := by
            simp [State.performAction, performed, hd, -Fin.getElem_fin]
          exact perform ▸ (Act.action (some a)).single.request

theorem drawFree_acts (k : RequestKind) (l : InputLine) (s : State) : RequestActs k s (s.drawFree l) := by
  unfold State.drawFree
  split
  · exact (RequestAct.free _).single
  · exact .refl

theorem takeConfigInput_acts (r : Request) (s : State) : RequestActs .configInput s (takeConfigInput r s).1 := by
  unfold takeConfigInput
  split
  · rename_i n level _ _
    exact ((((statusOfEdge_acts n s).request).tail (.configure n r.filterLength level)).tail
      (.act (.reevaluate n))).trans (drawFree_acts _ _ _)
  · exact .refl

theorem stepBy_acts (k : RequestKind) (d : Int) (s : State) : RequestActs k s (stepBy d s).1 := by
  unfold stepBy
  split
  · rename_i h
    exact (RequestAct.move d h).single.trans (takeDue_acts _).request
  · exact .refl

theorem takeSetTime_acts (r : Request) (s : State) : RequestActs .setTime s (takeSetTime r s).1 := by
  unfold takeSetTime
  split
  · exact .refl
  · exact stepBy_acts _ _ s

theorem takeClearTrip_acts (r : Request) (s : State) : RequestActs .clearTrip s (takeClearTrip r s).1 := by
  unfold takeClearTrip
  split
  · exact .refl
  · split
    · exact .refl
    · rename_i h
      exact (RequestAct.clear rfl (not_not.1 h)).single

/-- What an owning block makes of a request is a chain of elementary changes. -/
theorem owner_acts (k : RequestKind) (r : Request) (s : State) : RequestActs k s (owner k r s).1 := by
  cases k with
  | nop => exact .refl
  | fence => exact RequestAct.fence.single
  | arm => exact takeArm_acts r s
  | cancel => exact takeCancel_acts r s
  | cancelGroup => exact foldl_chain (fun _ n => (RequestAct.cancel n).single) _ s
  | stage => exact takeStage_acts r s
  | renew => exact takeRenew_acts r s
  | hold => exact takeHold_acts r s
  | release => exact takeRelease_acts r s
  | querySlot =>
    show RequestActs .querySlot s (takeQuerySlot r s).1
    unfold takeQuerySlot
    split <;> exact .refl
  | line => exact takeLine_acts r s
  | configInput => exact takeConfigInput_acts r s
  | readTime => exact .refl
  | stepTime => exact stepBy_acts _ _ s
  | setTime => exact takeSetTime_acts r s
  | clearTrip => exact takeClearTrip_acts r s
  | forceTrip => exact (Act.raise .forced nofun).single.request

end Sys2Proof.Proofs
end

section
/-! # What a step can do: its moves

Every command in every state is one of the moves of `Move`, each named with the condition under which it is made. -/

namespace Sys2Proof.Proofs
open Sys2Proof.Machine Sys2Proof.Claims

/-! ## The moves -/

/-- A control block that differs from another one in flags, registers, read data and counts alone: what the register window
writes without moving the controller. -/
structure SameController (c d : ControlBlock) : Prop where
  state : d.state = c.state
  origin : d.origin = c.origin
  configRead : d.configRead = c.configRead
  heldBlock : d.heldBlock = c.heldBlock

/-- The row hands over a record of the kind: it is the request row of that kind, or data whose kind byte names it (R139). -/
def Hands (c : Instr) (k : RequestKind) : Prop :=
  (∃ r, requestOf c = some (k, r))
    ∨ ∃ access data, c = .fetchDataArrives access data ∧ RequestKind.ofCode? data[0] = some k

/-- What a command can make of a state. -/
inductive Move (c : Instr) (s : State) : State → Prop
  | stay : Move c s s
  | expiry (n : SlotNumber) (h : s.expiresNext n = true) : Move c s (takeExpiry n s)
  | edge (n : InputNumber) (share : EdgeShare) : Move c s (takeEdge n share s)
  | pulseEnd (n : LineNumber) : Move c s (takePulseEnd n s)
  | moderation : Move c s (moderationExpiry s)
  | tick (pins : BitVec 8) : Move c s (beginTick pins (finishTick s))
  | powerOn (hc : c = .powerOnReset) : Move c s ((State.reset.withFreeCount s.freeCount).withPending s.pending)
  | reset : Move c s (controllerReset s)
  | window (x : ControlBlock) (h : SameController s.control x) : Move c s (s.withControl x)
  | submitTail (v : Nat) (h : v < s.fetch.entries) : Move c s (s.withFetch { s.fetch with tail := v })
  | completeHead (v : Nat) (h : s.writer.accepts v = true) : Move c s (s.withWriter { s.writer with completeHead := v })
  | dropFetch : Move c s (dropFetchEnd s)
  | dropWrite : Move c s (dropWriteEnd s)
  | load (origin : LoadOrigin)
      (h : s.control.state = .halted ∧ origin = .halted ∨ s.control.state = .faulted ∧ origin = .faulted) :
      Move c s (beginLoad origin s)
  | pause (h : s.control.state = .running) : Move c s (s.withState .pausing).settlePause
  | resume (h : s.control.state = .pausing ∨ s.control.state = .paused) : Move c s (s.withState .running)
  | readFails (cause : FaultCause) (h : s.control.configRead ≠ none) : Move c s ((endRead s).enterFaulted cause)
  | readHolds (b : ConfigBlock) (h : s.control.configRead ≠ none) (hb : b.valid = true) :
      Move c s ((endRead s).withControl { (endRead s).control with heldBlock := some b })
  | apply (b : ConfigBlock) (h : s.control.heldBlock = some b) (hw : s.writer.inFlight = none) : Move c s (applyBlock b s)
  | fetch (h : s.mayFetch = true) : Move c s (s.withFetch { s.fetch with inFlight := some s.fetch.head })
  | withdrawn (i : Nat) (h : s.fetch.inFlight = some i) :
      Move c s (s.withFetch { s.fetch with inFlight := none }).settlePause
  | refused (r : Request) (status : Status) (h : Arrives s) :
      Move c s ((taken s).holdResponse .ordinary r (.refusal status))
  | request (k : RequestKind) (r : Request) (hc : Hands c k) (h : Arrives s) (hv : refusal? k r (taken s) = none) :
      Move c s ((owner k r (taken s)).1.holdResponse (responseKind k (owner k r (taken s)).2) r (owner k r (taken s)).2)
  | fetchFails (i : Nat) (h : s.fetch.inFlight = some i) :
      Move c s ((s.withFetch { s.fetch with inFlight := none }).enterFaulted .fetchRead)
  | writeResponse (r : HeldResponse) (hs : s.control.state.writes = true) (hw : s.writer.inFlight = none)
      (hf : s.writer.full = false) (h : s.choose = .response r) : Move c s (issueResponse r s)
  | writeReport (src : Source) (hs : s.control.state.writes = true) (hw : s.writer.inFlight = none)
      (hf : s.writer.full = false) (h : s.choose = .report src) : Move c s (issueReport src s)
  | reportAck (w : CompletionWrite) (src : Source) (formed : ReportFields) (hw : s.writer.inFlight = some w)
      (h : w.source = .report src formed) : Move c s (acknowledgeReport src w s)
  | responseAck (w : CompletionWrite) (hw : s.writer.inFlight = some w) (h : w.source = .response) :
      Move c s (acknowledgeResponse w s)
  | writeFails (w : CompletionWrite) (hw : s.writer.inFlight = some w) (h : s.control.state.writes = true) :
      Move c s ((returnRecord w s).enterFaulted .completionWrite)
  | writeReturns (w : CompletionWrite) (hw : s.writer.inFlight = some w) (h : s.control.state.writes = false) :
      Move c s (returnRecord w s)

/-! ## Every command makes a move -/

theorem next_inj {s t : State} (h : (Host.Outcome.next s : Host.Outcome State Fault Refusal) = .next t) : s = t :=
  Host.Outcome.next.inj h

/-- An expiry row takes the expiry of a slot that comes next, or changes nothing (R47, R50). -/
theorem whenExpires_eq (n : SlotNumber) (k : ExpiryKind) (p : Arming → Bool → State → State) (s : State)
    (hp : ∀ a, s.slots[n].arming = some a → a.expiryKind? = some k → p a (isLate a s.time.now) s = takeExpiry n s) :
    (s.expiresNext n = true ∧ whenExpires n k p s = takeExpiry n s) ∨ whenExpires n k p s = s := by
  rcases whenExpires_cases n k p s with ⟨a, ha, hk, hn, h⟩ | ⟨-, h⟩
  · exact .inl ⟨hn, h.trans (hp a ha hk)⟩
  · exact .inr h

/-- Each expiry row runs the processing by which the expiry unit takes a slot of its kind (R50). -/
theorem expiryRow_eq {c : Instr} {n : SlotNumber} {s : State}
    (h : c ∈ [Instr.onceExpiry n, .repeatExpiry n, .guardWarn n, .guardFault n, .afterEdgeExpiry n, .timeout n]) :
    ∃ k p, exec c s = .next (whenExpires n k p s)
      ∧ ∀ a, s.slots[n].arming = some a → a.expiryKind? = some k → p a (isLate a s.time.now) s = takeExpiry n s := by
  simp only [List.mem_cons, List.not_mem_nil, or_false] at h
  rcases h with rfl | rfl | rfl | rfl | rfl | rfl <;>
    refine ⟨_, _, rfl, fun a ha hk => ?_⟩ <;>
    simp only [takeExpiry, ha, hk]

theorem expiryRow_move {c : Instr} {n : SlotNumber} {s t : State}
    (h : c ∈ [Instr.onceExpiry n, .repeatExpiry n, .guardWarn n, .guardFault n, .afterEdgeExpiry n, .timeout n])
    (ht : exec c s = .next t) : Move c s t := by
  obtain ⟨k, p, hc, hp⟩ := expiryRow_eq (s := s) h
  rw [hc] at ht
  obtain rfl := next_inj ht
  rcases whenExpires_eq n k p s hp with ⟨hn, he⟩ | he
  · rw [he]; exact .expiry n hn
  · rw [he]; exact .stay

/-- The end of a fetch in flight: its record is withdrawn, refused or handed to its owning block (R136, R138). -/
theorem arrive_move {c : Instr} {take : State → State} {s : State}
    (h : Arrives s → Move c s (take (taken s))) : Move c s (s.arrive take) := by
  cases hf : s.fetch.inFlight with
  | none => rw [State.arrive_idle hf]; exact .stay
  | some i =>
    by_cases ht : s.fetch.tail = s.fetch.head
    · rw [State.arrive_withdrawn hf ht]; exact .withdrawn i hf
    · have harrives : Arrives s := ⟨by rw [hf]; rfl, ht⟩
      rw [arrive_of_arrives harrives]
      exact h harrives

theorem engineTakes_move {c : Instr} {k : RequestKind} (hc : Hands c k) (r : Request) {s : State} (h : Arrives s) :
    Move c s (engineTakes k r (owner k) (taken s)) := by
  cases hv : refusal? k r (taken s) with
  | some status => rw [engineTakes_refused hv]; exact .refused r status h
  | none => rw [engineTakes_valid hv]; exact .request k r hc h hv

theorem takeRecord_move {c : Instr} {record : Record} (hc : ∀ k, RequestKind.ofCode? record.kind = some k → Hands c k)
    {s : State} (h : Arrives s) : Move c s (takeRecord record (taken s)) := by
  unfold takeRecord
  split
  · exact .refused _ _ h
  · rename_i k hk; exact engineTakes_move (hc k hk) _ h

theorem request_move {c : Instr} {k : RequestKind} {r : Request} (hc : requestOf c = some (k, r)) {s t : State}
    (ht : exec c s = .next t) : Move c s t := by
  rw [exec_eq_arrive_of_requestOf hc] at ht
  obtain rfl := next_inj ht
  exact arrive_move (engineTakes_move (.inl ⟨r, hc⟩) r)

theorem startCommand_move (c : Instr) (s : State) : Move c s (startCommand s) := by
  have hignored : Move c s (ignoreCommand s) := .window _ ⟨rfl, rfl, rfl, rfl⟩
  cases hs : s.control.state <;> simp only [startCommand, hs]
  case halted => exact .load _ (.inl ⟨hs, rfl⟩)
  case faulted => exact .load _ (.inr ⟨hs, rfl⟩)
  all_goals exact hignored

theorem pauseCommand_move (c : Instr) (s : State) : Move c s (pauseCommand s) := by
  unfold pauseCommand
  split
  · rename_i h; exact .pause h
  · exact .window _ ⟨rfl, rfl, rfl, rfl⟩

theorem resumeCommand_move (c : Instr) (s : State) : Move c s (resumeCommand s) := by
  unfold resumeCommand
  split
  · rename_i h; exact .resume h
  · exact .window _ ⟨rfl, rfl, rfl, rfl⟩

theorem controlWrite_move (c : Instr) (v : BitVec 32) (s : State) : Move c s (controlWrite v s) := by
  unfold controlWrite
  split
  · exact .stay
  · exact startCommand_move _ s
  · exact pauseCommand_move _ s
  · exact resumeCommand_move _ s
  · exact .reset
  · exact .window _ ⟨rfl, rfl, rfl, rfl⟩

theorem registerWrite_move {x : PlainRegister} {v : BitVec 32} {s t : State} (h : exec (.registerWrite x v) s = .next t) :
    Move (.registerWrite x v) s t := by
  obtain rfl := next_inj h
  cases x
  case status => exact .stay
  all_goals exact .window _ ⟨rfl, rfl, rfl, rfl⟩

theorem configRead_ne_none {s : State} (h : s.control.configRead.isSome = true) : s.control.configRead ≠ none :=
  Option.isSome_iff_ne_none.1 h

theorem configReadError_move {access : Access} {s t : State} (h : exec (.configReadError access) s = .next t) :
    Move (.configReadError access) s t := by
  obtain rfl := next_inj h
  cases access with
  | abandoned => exact .window _ ⟨rfl, rfl, rfl, rfl⟩
  | own =>
    dsimp only
    split
    · rename_i hr; exact .readFails _ (configRead_ne_none hr)
    · exact .stay

theorem configBlockArrives_move {access : Access} {data : Image64} {s t : State}
    (h : exec (.configBlockArrives access data) s = .next t) : Move (.configBlockArrives access data) s t := by
  obtain rfl := next_inj h
  cases access with
  | abandoned => exact .window _ ⟨rfl, rfl, rfl, rfl⟩
  | own =>
    dsimp only
    split
    · rename_i hr
      split
      · rename_i hb; exact .readHolds _ (configRead_ne_none hr) hb
      · exact .readFails _ (configRead_ne_none hr)
    · exact .stay

theorem configApply_move {s t : State} (h : exec .configApply s = .next t) : Move .configApply s t := by
  obtain rfl := next_inj h
  split
  · exact .stay
  · rename_i b hb
    split
    · rename_i hw; exact .apply b hb hw
    · exact .stay

theorem fetchReadError_move {access : Access} {s t : State} (h : exec (.fetchReadError access) s = .next t) :
    Move (.fetchReadError access) s t := by
  obtain rfl := next_inj h
  cases access with
  | abandoned => exact .dropFetch
  | own =>
    dsimp only
    split
    · exact .stay
    · rename_i i hi; exact .fetchFails i hi

theorem completionWriteIssue_move {s t : State} (h : exec .completionWriteIssue s = .next t) :
    Move .completionWriteIssue s t := by
  obtain rfl := next_inj h
  split
  · rename_i hc
    obtain ⟨hs, hw, hf⟩ := hc
    split
    · exact .stay
    · rename_i r hr; exact .writeResponse r hs hw hf hr
    · rename_i src hr; exact .writeReport src hs hw hf hr
  · exact .stay

theorem reportWriteAck_move {access : Access} {s t : State} (h : exec (.reportWriteAck access) s = .next t) :
    Move (.reportWriteAck access) s t := by
  obtain rfl := next_inj h
  cases access with
  | abandoned => exact .dropWrite
  | own =>
    dsimp only
    split
    · exact .stay
    · rename_i w hw
      split
      · exact .stay
      · rename_i src formed hsrc; exact .reportAck w src formed hw hsrc

theorem responseWriteAck_move {access : Access} {s t : State} (h : exec (.responseWriteAck access) s = .next t) :
    Move (.responseWriteAck access) s t := by
  obtain rfl := next_inj h
  cases access with
  | abandoned => exact .dropWrite
  | own =>
    dsimp only
    split
    · exact .stay
    · rename_i w hw
      split
      · rename_i hsrc; exact .responseAck w hw hsrc
      · exact .stay

theorem completionWriteError_move {access : Access} {s t : State} (h : exec (.completionWriteError access) s = .next t) :
    Move (.completionWriteError access) s t := by
  obtain rfl := next_inj h
  cases access with
  | abandoned => exact .dropWrite
  | own =>
    dsimp only
    split
    · exact .stay
    · rename_i w hw
      split
      · rename_i hs; exact .writeFails w hw hs
      · rename_i hs; exact .writeReturns w hw (Bool.eq_false_iff.2 hs)

theorem submitTailWrite_move {v : BitVec 32} {s t : State} (h : exec (.submitTailWrite v) s = .next t) :
    Move (.submitTailWrite v) s t := by
  obtain rfl := next_inj h
  dsimp only
  split
  · rename_i hv; exact .submitTail _ hv
  · exact .window _ ⟨rfl, rfl, rfl, rfl⟩

theorem completeHeadWrite_move {v : BitVec 32} {s t : State} (h : exec (.completeHeadWrite v) s = .next t) :
    Move (.completeHeadWrite v) s t := by
  obtain rfl := next_inj h
  dsimp only
  split
  · rename_i hv; exact .completeHead _ hv
  · exact .window _ ⟨rfl, rfl, rfl, rfl⟩

theorem fetchIssue_move {s t : State} (h : exec .fetchIssue s = .next t) : Move .fetchIssue s t := by
  obtain rfl := next_inj h
  dsimp only
  split
  · rename_i hm; exact .fetch hm
  · exact .stay

theorem fetchDataArrives_move {access : Access} {data : Image64} {s t : State}
    (h : exec (.fetchDataArrives access data) s = .next t) : Move (.fetchDataArrives access data) s t := by
  obtain rfl := next_inj h
  cases access with
  | abandoned => exact .dropFetch
  | own => exact arrive_move (takeRecord_move fun k hk => .inr ⟨_, data, rfl, hk⟩)

/-- Every command makes one of the moves. -/
theorem exec_move {c : Instr} {s t : State} (h : exec c s = .next t) : Move c s t := by
  cases c
  case powerOnReset => obtain rfl := next_inj h; exact .powerOn rfl
  case tick pins => obtain rfl := next_inj h; exact .tick pins
  case start => obtain rfl := next_inj h; exact startCommand_move _ s
  case pause => obtain rfl := next_inj h; exact pauseCommand_move _ s
  case resume => obtain rfl := next_inj h; exact resumeCommand_move _ s
  case reset => obtain rfl := next_inj h; exact .reset
  case statusRead => obtain rfl := next_inj h; exact .window _ ⟨rfl, rfl, rfl, rfl⟩
  case submitTailWrite => exact submitTailWrite_move h
  case completeHeadWrite => exact completeHeadWrite_move h
  case intCauseWrite => obtain rfl := next_inj h; exact .window _ ⟨rfl, rfl, rfl, rfl⟩
  case registerWrite => exact registerWrite_move h
  case configReadError => exact configReadError_move h
  case configBlockArrives => exact configBlockArrives_move h
  case configApply => exact configApply_move h
  case fetchIssue => exact fetchIssue_move h
  case fetchDataArrives => exact fetchDataArrives_move h
  case fetchReadError => exact fetchReadError_move h
  case onceExpiry n => exact expiryRow_move (n := n) (by simp) h
  case repeatExpiry n => exact expiryRow_move (n := n) (by simp) h
  case guardWarn n => exact expiryRow_move (n := n) (by simp) h
  case guardFault n => exact expiryRow_move (n := n) (by simp) h
  case afterEdgeExpiry n => exact expiryRow_move (n := n) (by simp) h
  case timeout n => exact expiryRow_move (n := n) (by simp) h
  case pulseEnd n => obtain rfl := next_inj h; exact .pulseEnd n
  case edge n share => obtain rfl := next_inj h; exact .edge n share
  case completionWriteIssue => exact completionWriteIssue_move h
  case reportWriteAck => exact reportWriteAck_move h
  case responseWriteAck => exact responseWriteAck_move h
  case completionWriteError => exact completionWriteError_move h
  case moderationDelayExpiry => obtain rfl := next_inj h; exact .moderation
  case controlWriteUnassignedCode v => obtain rfl := next_inj h; exact controlWrite_move _ v s
  all_goals exact request_move rfl h

/-- Every command answers a next state (log 18). -/
theorem exec_answers (c : Instr) (s : State) : ∃ t, exec c s = .next t := by
  cases c <;> exact ⟨_, rfl⟩

/-- What an idle period and every move keep, every step keeps; the queue of commands is no part of it. -/
theorem keptByEveryStep {Inv : State → Prop} (hpending : ∀ s rest, Inv s → Inv (s.withPending rest))
    (hidle : ∀ s, Inv s → Inv (refclkPeriod s)) (hmove : ∀ c s t, Move c s t → Inv s → Inv t) : KeptByEveryStep Inv := by
  intro s t hs hstep
  rcases step_next hstep with ⟨-, rfl⟩ | ⟨c, rest, -, h⟩
  · exact hidle s hs
  · exact hmove _ _ _ (exec_move h) (hpending s rest hs)

end Sys2Proof.Proofs
end

section
/-! # What a step leaves as it is

The elementary changes keep the fetch unit, the held response, the controller and the write in flight but for its notes;
those that a tick or an event row is made of also keep device time, the groups and the generations. -/

namespace Sys2Proof.Proofs
open Sys2Proof.Machine Sys2Proof.Claims

/-- A write in flight without its notes (R156). -/
def unnoted (w : CompletionWrite) : CompletionWrite := { w with eventNoted := false, cancelNoted := false }

/-- What every elementary change of a request keeps. -/
structure Quiet (s t : State) : Prop where
  fetch : t.fetch = s.fetch
  held : t.held = s.held
  configurationPresent : t.configurationPresent = s.configurationPresent
  pending : t.pending = s.pending
  control : t.control = { s.control with intCause := t.control.intCause }
  writer : t.writer = { s.writer with
    queue := t.writer.queue, inFlight := t.writer.inFlight, controllerEntry := t.writer.controllerEntry
    fenceMark := t.writer.fenceMark, moderationCount := t.writer.moderationCount, delayTimer := t.writer.delayTimer }
  flight : t.writer.inFlight.map unnoted = s.writer.inFlight.map unnoted

/-- What the elementary changes of ticks and event rows keep besides. -/
structure Still (s t : State) : Prop extends Quiet s t where
  time : t.time = s.time
  groups : t.groups = s.groups
  freeCount : t.freeCount = s.freeCount
  fenceMark : t.writer.fenceMark = s.writer.fenceMark
  generation : ∀ n : SlotNumber, t.slots[n].generation = s.slots[n].generation

theorem Quiet.refl (s : State) : Quiet s s := ⟨rfl, rfl, rfl, rfl, rfl, rfl, rfl⟩

theorem Quiet.trans {s t u : State} (h : Quiet s t) (k : Quiet t u) : Quiet s u where
  fetch := k.fetch.trans h.fetch
  held := k.held.trans h.held
  configurationPresent := k.configurationPresent.trans h.configurationPresent
  pending := k.pending.trans h.pending
  control := k.control.trans (by rw [h.control])
  writer := k.writer.trans (by rw [h.writer])
  flight := k.flight.trans h.flight

theorem Still.refl (s : State) : Still s s := { Quiet.refl s with
  time := rfl, groups := rfl, freeCount := rfl, fenceMark := rfl, generation := fun _ => rfl }

theorem Still.trans {s t u : State} (h : Still s t) (k : Still t u) : Still s u :=
  { h.toQuiet.trans k.toQuiet with
    time := k.time.trans h.time
    groups := k.groups.trans h.groups
    freeCount := k.freeCount.trans h.freeCount
    fenceMark := k.fenceMark.trans h.fenceMark
    generation := fun n => (k.generation n).trans (h.generation n) }

/-! ## Notes of the write in flight -/

theorem noteWrite_flight (src : Source) (f : CompletionWrite → CompletionWrite) (hf : ∀ w, unnoted (f w) = unnoted w)
    (s : State) : (s.noteWrite src f).writer.inFlight.map unnoted = s.writer.inFlight.map unnoted := by
  simp only [State.noteWrite, State.withWriter_writer, Option.map_map]
  congr 1
  funext w
  simp only [Function.comp]
  split
  · exact hf w
  · rfl

theorem putReport_inFlight (src : Source) (r : Report) (s : State) :
    (s.putReport src r).writer.inFlight = s.writer.inFlight := by
  cases src <;> rfl

theorem makePending_flight (src : Source) (s : State) :
    (s.makePending src).writer.inFlight.map unnoted = s.writer.inFlight.map unnoted := by
  unfold State.makePending
  split
  · exact congrArg _ (putReport_inFlight src _ s)
  · exact noteWrite_flight src (fun w => { w with eventNoted := true }) (fun _ => rfl) s

theorem recordEvent_flight (src : Source) (o : Occurrence) (makesPending : Bool) (s : State) :
    (s.recordEvent src o makesPending).writer.inFlight.map unnoted = s.writer.inFlight.map unnoted := by
  unfold State.recordEvent
  dsimp only
  split
  · exact (makePending_flight src _).trans (congrArg _ (putReport_inFlight src _ s))
  · exact congrArg _ (putReport_inFlight src _ s)

/-! ## The elementary changes -/

theorem performAction_still (x : Option Action) (s : State) : Still s (s.performAction x) := by
  rw [State.performAction_frame]
  exact ⟨⟨rfl, rfl, rfl, rfl, rfl, rfl, rfl⟩, rfl, rfl, rfl, rfl, fun _ => rfl⟩

theorem putArming_generation (n : SlotNumber) (a : Option Arming) (s : State) (m : SlotNumber) :
    (s.putArming n a).slots[m].generation = s.slots[m].generation := by
  by_cases h : m = n
  · subst h; rw [State.putArming_slot]
  · rw [State.putArming_slot_ne a s h]

theorem recordEvent_still (src : Source) (o : Occurrence) (makesPending : Bool) (s : State) :
    Still s (s.recordEvent src o makesPending) where
  fetch := State.recordEvent_fetch _ _ _ s
  held := State.recordEvent_held _ _ _ s
  configurationPresent := by rw [State.recordEvent_frame]
  pending := by rw [State.recordEvent_frame]
  control := by rw [State.recordEvent_control]
  writer := by rw [State.recordEvent_frame]
  flight := recordEvent_flight src o makesPending s
  time := State.recordEvent_time _ _ _ s
  groups := State.recordEvent_groups _ _ _ s
  freeCount := by rw [State.recordEvent_frame]
  fenceMark := by rw [State.recordEvent_frame]
  generation n := (State.recordEvent_slot src o makesPending s n).2

/-- What a raise does before its event is recorded keeps the write in flight. -/
theorem raise_flight (r : Raise) (s : State) :
    (s.raise r).writer.inFlight.map unnoted = s.writer.inFlight.map unnoted := by
  unfold State.raise
  dsimp only
  split <;> exact recordEvent_flight .controller _ true _

theorem raise_still (r : Raise) (s : State) : Still s (s.raise r) where
  fetch := State.raise_fetch r s
  held := State.raise_held r s
  configurationPresent := by rw [State.raise_frame]
  pending := by rw [State.raise_frame]
  control := by rw [State.raise_frame]
  writer := by rw [State.raise_frame]
  flight := raise_flight r s
  time := State.raise_time r s
  groups := State.raise_groups r s
  freeCount := by rw [State.raise_frame]
  fenceMark := by rw [State.raise_frame]
  generation n := by rw [State.raise_slots]

theorem putInput_still (n : InputNumber) (l : InputLine) (s : State) : Still s (s.putInput n l) :=
  ⟨⟨rfl, rfl, rfl, rfl, rfl, rfl, rfl⟩, rfl, rfl, rfl, rfl, fun _ => rfl⟩

theorem beginEdge_still (n : InputNumber) (s : State) : Still s (beginEdge n s) := by
  rcases beginEdge_cases n s with ⟨e, -, h⟩ | ⟨-, -, h⟩ | ⟨level, -, -, h⟩
  · rw [h]; exact .refl s
  · rw [h]; exact .refl s
  · rw [h]; exact putInput_still n _ s

/-- The three cases of R78: the status stands as it should, becomes active with a raise, or becomes inactive. -/
theorem reevaluate_cases (n : InputNumber) (s : State) :
    (s.inputs[n].atTripLevel = s.inputs[n].active ∧ s.reevaluate n = s)
      ∨ (s.inputs[n].atTripLevel = true ∧ s.inputs[n].active = false
          ∧ s.reevaluate n = (s.putInput n { s.inputs[n] with active := true }).raise (.input n))
      ∨ (s.inputs[n].atTripLevel = false ∧ s.inputs[n].active = true
          ∧ s.reevaluate n = (s.putInput n { s.inputs[n] with active := false }).dropInputCause n) := by
  unfold State.reevaluate
  cases hl : s.inputs[n].atTripLevel <;> cases ha : s.inputs[n].active <;> simp [hl, ha, -Fin.getElem_fin]

theorem reevaluate_still (n : InputNumber) (s : State) : Still s (s.reevaluate n) := by
  rcases reevaluate_cases n s with ⟨-, h⟩ | ⟨-, -, h⟩ | ⟨-, -, h⟩
  · rw [h]; exact .refl s
  · rw [h]; exact (putInput_still n _ s).trans (raise_still _ _)
  · rw [h]; exact (putInput_still n { s.inputs[n] with active := false } s).trans ⟨⟨rfl, rfl, rfl, rfl, rfl, rfl, rfl⟩,
      rfl, rfl, rfl, rfl, fun _ => rfl⟩

theorem Act.still {s t : State} (h : Act s t) : Still s t := by
  cases h with
  | action x => exact performAction_still x s
  | pulseEnd n => exact ⟨⟨rfl, rfl, rfl, rfl, rfl, rfl, rfl⟩, rfl, rfl, rfl, rfl, fun _ => rfl⟩
  | pulseEnds => exact ⟨⟨rfl, rfl, rfl, rfl, rfl, rfl, rfl⟩, rfl, rfl, rfl, rfl, fun _ => rfl⟩
  | arming n a => exact ⟨⟨rfl, rfl, rfl, rfl, rfl, rfl, rfl⟩, rfl, rfl, rfl, rfl, putArming_generation n a s⟩
  | event src o makesPending => exact recordEvent_still src o makesPending s
  | raise r => exact raise_still r s
  | signal => exact ⟨⟨rfl, rfl, rfl, rfl, rfl, rfl, rfl⟩, rfl, rfl, rfl, rfl, fun _ => rfl⟩
  | accept n => exact beginEdge_still n s
  | mark n e e' => exact putInput_still n _ s
  | reevaluate n => exact reevaluate_still n s

/-- A chain of the changes of ticks and event rows keeps what each of them keeps. -/
theorem Acts.still {s t : State} (h : Acts s t) : Still s t := by
  induction h with
  | refl => exact .refl s
  | tail _ hstep ih => exact ih.trans hstep.still

theorem cancelSlot_quiet (n : SlotNumber) (s : State) : Quiet s (cancelSlot n s) := by
  unfold cancelSlot
  dsimp only
  split
  · exact ⟨rfl, rfl, rfl, rfl, rfl, rfl,
      noteWrite_flight (.slot n) (fun w => { w with cancelNoted := true }) (fun _ => rfl) _⟩
  · exact ⟨rfl, rfl, rfl, rfl, rfl, rfl, rfl⟩

theorem withGroups_quiet (x : Vector GroupState 16) (s : State) : Quiet s (s.withGroups x) :=
  ⟨rfl, rfl, rfl, rfl, rfl, rfl, rfl⟩

theorem withTimers_quiet (x : TimeBase) (slots : Vector Slot 256) (lines : Vector OutputLine 16) (l : List SlotNumber)
    (s : State) : Quiet s (takePulseEnds ((((s.withTime x).withSlots slots).withLines lines).withDeadlineList l)) :=
  ⟨rfl, rfl, rfl, rfl, rfl, rfl, rfl⟩

theorem moveTime_quiet (k : Int) (s : State) : Quiet s (moveTime k s) := withTimers_quiet _ _ _ _ s

theorem RequestAct.quiet {k : RequestKind} {s t : State} (h : RequestAct k s t) : Quiet s t := by
  cases h with
  | act h => exact h.still.toQuiet
  | cancel n => exact cancelSlot_quiet n s
  | groups => exact withGroups_quiet _ s
  | arm => exact ⟨rfl, rfl, rfl, rfl, rfl, rfl, rfl⟩
  | configure n f l => exact (putInput_still n _ s).toQuiet
  | free => exact ⟨rfl, rfl, rfl, rfl, rfl, rfl, rfl⟩
  | fence => exact ⟨rfl, rfl, rfl, rfl, rfl, rfl, rfl⟩
  | clear => exact ⟨rfl, rfl, rfl, rfl, rfl, rfl, rfl⟩
  | move d => exact moveTime_quiet d s

theorem RequestActs.quiet {k : RequestKind} {s t : State} (h : RequestActs k s t) : Quiet s t := by
  induction h with
  | refl => exact .refl s
  | tail _ hstep ih => exact ih.trans hstep.quiet

theorem owner_quiet (k : RequestKind) (r : Request) (s : State) : Quiet s (owner k r s).1 := (owner_acts k r s).quiet

/-! ## Reading off what is kept -/

theorem Quiet.state {s t : State} (h : Quiet s t) : t.control.state = s.control.state := by rw [h.control]
theorem Quiet.origin {s t : State} (h : Quiet s t) : t.control.origin = s.control.origin := by rw [h.control]
theorem Quiet.configRead {s t : State} (h : Quiet s t) : t.control.configRead = s.control.configRead := by rw [h.control]
theorem Quiet.heldBlock {s t : State} (h : Quiet s t) : t.control.heldBlock = s.control.heldBlock := by rw [h.control]

/-- A write in flight was in flight before, with the same record and source. -/
theorem Quiet.write {s t : State} (h : Quiet s t) {w : CompletionWrite} (hw : t.writer.inFlight = some w) :
    ∃ v, s.writer.inFlight = some v ∧ unnoted v = unnoted w := by
  have hflight := h.flight
  rw [hw, Option.map_some] at hflight
  exact Option.map_eq_some_iff.1 hflight.symm

theorem source_of_unnoted {v w : CompletionWrite} (h : unnoted v = unnoted w) : v.source = w.source :=
  (congrArg CompletionWrite.source h : (unnoted v).source = (unnoted w).source)

end Sys2Proof.Proofs
end

section
/-! # The timers among the moves

Traffic with memory and the register window never touches the timers: that is what O60 states, and it leaves few moves for
what every step keeps of slots, lines, inputs and trip unit. -/

namespace Sys2Proof.Proofs
open Sys2Proof.Machine Sys2Proof.Claims

/-! ## What traffic keeps -/

/-- Device time, groups, deadline list, lines, inputs, trip unit, armings and generations are as before. -/
structure TimersKept (s t : State) : Prop where
  time : t.time = s.time
  groups : t.groups = s.groups
  list : t.deadlineList = s.deadlineList
  lines : t.lines = s.lines
  inputs : t.inputs = s.inputs
  trip : t.trip = s.trip
  configurationPresent : t.configurationPresent = s.configurationPresent
  arming : ∀ n : SlotNumber, t.slots[n].arming = s.slots[n].arming
  generation : ∀ n : SlotNumber, t.slots[n].generation = s.slots[n].generation

theorem TimersKept.refl (s : State) : TimersKept s s := ⟨rfl, rfl, rfl, rfl, rfl, rfl, rfl, fun _ => rfl, fun _ => rfl⟩

theorem TimersKept.trans {s t u : State} (h : TimersKept s t) (k : TimersKept t u) : TimersKept s u where
  time := k.time.trans h.time
  groups := k.groups.trans h.groups
  list := k.list.trans h.list
  lines := k.lines.trans h.lines
  inputs := k.inputs.trans h.inputs
  trip := k.trip.trans h.trip
  configurationPresent := k.configurationPresent.trans h.configurationPresent
  arming n := (k.arming n).trans (h.arming n)
  generation n := (k.generation n).trans (h.generation n)

section
variable (s : State)
theorem withFetch_timers (x : FetchUnit) : TimersKept s (s.withFetch x) := { TimersKept.refl s with }
theorem withHeld_timers (x : Option HeldResponse) : TimersKept s (s.withHeld x) := { TimersKept.refl s with }
theorem withWriter_timers (x : CompletionWriter) : TimersKept s (s.withWriter x) := { TimersKept.refl s with }
theorem withControl_timers (x : ControlBlock) : TimersKept s (s.withControl x) := { TimersKept.refl s with }
end

theorem putReport_timers (src : Source) (r : Report) (s : State) : TimersKept s (s.putReport src r) where
  time := by rw [State.putReport_frame]
  groups := by rw [State.putReport_frame]
  list := by rw [State.putReport_frame]
  lines := by rw [State.putReport_frame]
  inputs := by rw [State.putReport_frame]
  trip := by rw [State.putReport_frame]
  configurationPresent := by rw [State.putReport_frame]
  arming n := (State.putReport_slot src r s n).1
  generation n := (State.putReport_slot src r s n).2

theorem taken_timers (s : State) : TimersKept s (taken s) := withFetch_timers s _

theorem settlePause_timers (s : State) : TimersKept s s.settlePause := by
  rcases State.settlePause_cases s with ⟨-, -, -, h⟩ | ⟨-, h⟩ <;> rw [h]
  · exact withControl_timers s _
  · exact .refl s

theorem signalCompletion_timers (s : State) : TimersKept s (signalCompletion s) :=
  (withWriter_timers s _).trans (withControl_timers _ _)

theorem moderationExpiry_timers (s : State) : TimersKept s (moderationExpiry s) := by
  unfold moderationExpiry
  split
  · exact signalCompletion_timers s
  · exact .refl s

theorem countRecord_timers (s : State) : TimersKept s (countRecord s) := by
  unfold countRecord
  dsimp only
  split
  · exact signalCompletion_timers s
  · exact withWriter_timers s _

theorem returnRecord_timers (w : CompletionWrite) (s : State) : TimersKept s (returnRecord w s) := by
  unfold returnRecord
  dsimp only
  split
  · exact withWriter_timers s _
  · exact (withWriter_timers s _).trans (putReport_timers _ _ _)

theorem leaveQueue_timers (src : Source) (rejoins : Bool) (s : State) : TimersKept s (leaveQueue src rejoins s) := by
  have left (x : CompletionWriter) (r : Report) : TimersKept s ((s.withWriter x).putReport src r) :=
    (withWriter_timers s x).trans (putReport_timers src r _)
  cases rejoins
  · exact left _ _
  · exact (left _ _).trans (withWriter_timers _ _)

theorem issueReport_timers (src : Source) (s : State) : TimersKept s (issueReport src s) :=
  (withWriter_timers s _).trans (putReport_timers src _ _)

theorem acknowledgeReport_timers (src : Source) (w : CompletionWrite) (s : State) :
    TimersKept s (acknowledgeReport src w s) :=
  ((withWriter_timers s _).trans (leaveQueue_timers src _ _)).trans (countRecord_timers _)

theorem acknowledgeResponse_timers (w : CompletionWrite) (s : State) : TimersKept s (acknowledgeResponse w s) :=
  (((withWriter_timers s _).trans (withHeld_timers _ none)).trans (settlePause_timers _)).trans (countRecord_timers _)

/-- An entry into FAULTED is a change of control block and fetch unit, and then perhaps a raise (R106, R128). -/
theorem enterFaulted_cases (cause : FaultCause) (s : State) :
    ∃ u, TimersKept s u ∧ (s.enterFaulted cause = u ∨ s.enterFaulted cause = u.raise (.controllerFault cause)) := by
  have faulted (c : ControlBlock) (f : FetchUnit) : TimersKept s (((s.withControl c).withFetch f).setCause intFault) :=
    ((withControl_timers s c).trans (withFetch_timers _ f)).trans (withControl_timers _ _)
  unfold State.enterFaulted
  dsimp only
  split
  · exact ⟨_, faulted _ _, .inr rfl⟩
  · exact ⟨_, faulted _ _, .inl rfl⟩

/-! ## The moves, by what they do to the timers -/

/-- The timers change by chains of elementary changes, ticks, requests, resets and the application of a block alone. -/
inductive TimerMove (c : Instr) (s : State) : State → Prop
  | acts {u v t : State} (before : TimersKept s u) (h : Acts u v) (after : TimersKept v t) : TimerMove c s t
  | tick (pins : BitVec 8) : TimerMove c s (beginTick pins (finishTick s))
  | request {u t : State} (k : RequestKind) (hc : Hands c k) (h : RequestActs k (taken s) u) (after : TimersKept u t) :
      TimerMove c s t
  | powerOn (hc : c = .powerOnReset) :
      TimerMove c s ((State.reset.withFreeCount s.freeCount).withPending s.pending)
  | reset : TimerMove c s (controllerReset s)
  | apply (b : ConfigBlock) (h : s.control.heldBlock = some b) : TimerMove c s (applyBlock b s)

theorem Move.timerMove {c : Instr} {s t : State} (h : Move c s t) : TimerMove c s t := by
  have kept {t : State} (h : TimersKept s t) : TimerMove c s t := .acts h .refl (.refl t)
  have acts {t : State} (h : Acts s t) : TimerMove c s t := .acts (.refl s) h (.refl t)
  have faults {u : State} (h : TimersKept s u) (cause : FaultCause) : TimerMove c s (u.enterFaulted cause) := by
    obtain ⟨v, hv, he | he⟩ := enterFaulted_cases cause u <;> rw [he]
    · exact kept (h.trans hv)
    · exact .acts (h.trans hv) (Act.raise (.controllerFault cause) nofun).single (.refl _)
  cases h with
  | stay => exact kept (.refl s)
  | expiry n => exact acts (takeExpiry_acts n s)
  | edge n share => exact acts (takeEdge_acts n share s)
  | pulseEnd n => exact acts (Act.pulseEnd n).single
  | moderation => exact kept (moderationExpiry_timers s)
  | tick pins => exact .tick pins
  | powerOn hc => exact .powerOn hc
  | reset => exact .reset
  | window x => exact kept (withControl_timers s x)
  | submitTail => exact kept (withFetch_timers s _)
  | completeHead => exact kept (withWriter_timers s _)
  | dropFetch => exact kept (withFetch_timers s _)
  | dropWrite => exact kept (withWriter_timers s _)
  | load origin => exact kept (withControl_timers s _)
  | pause => exact kept ((withControl_timers s _).trans (settlePause_timers _))
  | resume => exact kept (withControl_timers s _)
  | readFails cause => exact faults (withControl_timers s _) cause
  | readHolds b => exact kept ((withControl_timers s _).trans (withControl_timers _ _))
  | apply b h => exact .apply b h
  | fetch => exact kept (withFetch_timers s _)
  | withdrawn => exact kept ((withFetch_timers s _).trans (settlePause_timers _))
  | refused r status => exact kept ((taken_timers s).trans (withHeld_timers _ _))
  | request k r hc => exact .request k hc (owner_acts k r _) (withHeld_timers _ _)
  | fetchFails => exact faults (withFetch_timers s _) _
  | writeResponse => exact kept (withWriter_timers s _)
  | writeReport src => exact kept (issueReport_timers src s)
  | reportAck w src => exact kept (acknowledgeReport_timers src w s)
  | responseAck w => exact kept (acknowledgeResponse_timers w s)
  | writeFails w => exact faults (returnRecord_timers w s) _
  | writeReturns w => exact kept (returnRecord_timers w s)

/-- A property of the timers that the elementary changes keep, and that a tick, a reset and an application keep, every step
keeps. -/
theorem timersKeptByEveryStep {Inv : State → Prop} (hkept : ∀ s t, TimersKept s t → Inv s → Inv t)
    (hact : ∀ s t, Act s t → Inv s → Inv t) (hrequest : ∀ k s t, RequestAct k s t → Inv s → Inv t)
    (htick : ∀ pins s, Inv s → Inv (finishTick s) → Inv (beginTick pins (finishTick s)))
    (hidle : ∀ s, Inv s → Inv (refclkPeriod s))
    (hpower : Inv State.reset) (hreset : ∀ s, Inv s → Inv (controllerReset s))
    (happly : ∀ b s, Inv s → Inv (applyBlock b s)) : KeptByEveryStep Inv := by
  refine keptByEveryStep (fun s rest => hkept _ _ { TimersKept.refl s with }) hidle fun c s t h hs => ?_
  cases h.timerMove with
  | acts before hacts after => exact hkept _ _ after (acts_keep hact hacts (hkept _ _ before hs))
  | tick pins => exact htick pins s hs (acts_keep hact (finishTick_acts s) hs)
  | request k _ hacts after => exact hkept _ _ after (acts_keep (hrequest k) hacts (hkept _ _ (taken_timers s) hs))
  | powerOn => exact hkept _ _ { TimersKept.refl State.reset with } hpower
  | reset => exact hreset s hs
  | apply b => exact happly b s hs

/-! ## Traffic leaves the timers alone -/

theorem startCommand_timers (s : State) : TimersKept s (startCommand s) := by
  cases hs : s.control.state <;> simp only [startCommand, hs] <;> exact withControl_timers s _

theorem pauseCommand_timers (s : State) : TimersKept s (pauseCommand s) := by
  unfold pauseCommand
  split
  · exact (withControl_timers s _).trans (settlePause_timers _)
  · exact withControl_timers s _

theorem resumeCommand_timers (s : State) : TimersKept s (resumeCommand s) := by
  unfold resumeCommand
  split <;> exact withControl_timers s _

theorem controlWrite_timers {v : BitVec 32} (h : v.toNat = 0 ∨ 4 < v.toNat) (s : State) :
    TimersKept s (controlWrite v s) := by
  unfold controlWrite
  split
  case h_1 => exact .refl s
  case h_6 => exact withControl_timers s _
  all_goals omega

theorem fetchIssue_timers {s t : State} (h : exec .fetchIssue s = .next t) : TimersKept s t := by
  obtain rfl := next_inj h
  dsimp only
  split
  · exact withFetch_timers s _
  · exact .refl s

theorem completionWriteIssue_timers {s t : State} (h : exec .completionWriteIssue s = .next t) : TimersKept s t := by
  obtain rfl := next_inj h
  split
  · split
    · exact .refl s
    · exact withWriter_timers s _
    · exact issueReport_timers _ s
  · exact .refl s

theorem submitTailWrite_timers {v : BitVec 32} {s t : State} (h : exec (.submitTailWrite v) s = .next t) :
    TimersKept s t := by
  obtain rfl := next_inj h
  dsimp only
  split
  · exact withFetch_timers s _
  · exact withControl_timers s _

theorem completeHeadWrite_timers {v : BitVec 32} {s t : State} (h : exec (.completeHeadWrite v) s = .next t) :
    TimersKept s t := by
  obtain rfl := next_inj h
  dsimp only
  split
  · exact withWriter_timers s _
  · exact withControl_timers s _

theorem registerWrite_timers {x : PlainRegister} {v : BitVec 32} {s t : State}
    (h : exec (.registerWrite x v) s = .next t) : TimersKept s t := by
  obtain rfl := next_inj h
  cases x
  case status => exact .refl s
  all_goals exact withControl_timers s _

theorem reportWriteAck_timers {x : Access} {s t : State} (h : exec (.reportWriteAck x) s = .next t) :
    TimersKept s t := by
  obtain rfl := next_inj h
  cases x with
  | abandoned => exact withWriter_timers s _
  | own =>
    dsimp only
    split
    · exact .refl s
    · split
      · exact .refl s
      · exact acknowledgeReport_timers _ _ s

theorem responseWriteAck_timers {x : Access} {s t : State} (h : exec (.responseWriteAck x) s = .next t) :
    TimersKept s t := by
  obtain rfl := next_inj h
  cases x with
  | abandoned => exact withWriter_timers s _
  | own =>
    dsimp only
    split
    · exact .refl s
    · split
      · exact acknowledgeResponse_timers _ s
      · exact .refl s

/-- Settles O60: each of the rows writes the control block, the fetch unit, the completion writer, the held response and
report fields alone. -/
theorem trafficLeavesTheTimersAlone : Obligations.TrafficLeavesTheTimersAlone := by
  intro c s hc
  obtain ⟨t, ht⟩ := exec_answers c s
  have kept : TimersKept s t := by
    rcases hc with hc | ⟨v, rfl | rfl | rfl | ⟨x, rfl⟩⟩ | ⟨v, rfl, hv⟩ | ⟨x, rfl | rfl⟩
    · simp only [List.mem_cons, List.not_mem_nil, or_false] at hc
      rcases hc with rfl | rfl | rfl | rfl | rfl | rfl | rfl
      · exact next_inj ht ▸ startCommand_timers s
      · exact next_inj ht ▸ pauseCommand_timers s
      · exact next_inj ht ▸ resumeCommand_timers s
      · exact next_inj ht ▸ withControl_timers s _
      · exact fetchIssue_timers ht
      · exact completionWriteIssue_timers ht
      · exact next_inj ht ▸ moderationExpiry_timers s
    · exact submitTailWrite_timers ht
    · exact completeHeadWrite_timers ht
    · exact next_inj ht ▸ withControl_timers s _
    · exact registerWrite_timers ht
    · exact next_inj ht ▸ controlWrite_timers hv s
    · exact reportWriteAck_timers ht
    · exact responseWriteAck_timers ht
  exact ⟨t, ht, kept.time, kept.groups, kept.list, kept.lines, kept.inputs, kept.trip, kept.configurationPresent,
    kept.arming⟩

end Sys2Proof.Proofs
end

section
/-! # The deadline list and the generations

The slots and the deadline list change by armings alone, and each arming set carries its change to the list; the statements
about the deadline list and about generations that every step keeps (R19, R41, R42). -/

namespace Sys2Proof.Proofs
open Sys2Proof.Machine Sys2Proof.Claims

/-! ## Changes that leave every arming -/

/-- The deadline list, every arming and every generation are as before. -/
structure SameSlots (s t : State) : Prop where
  list : t.deadlineList = s.deadlineList
  arming : ∀ n : SlotNumber, t.slots[n].arming = s.slots[n].arming
  generation : ∀ n : SlotNumber, t.slots[n].generation = s.slots[n].generation

theorem SameSlots.refl (s : State) : SameSlots s s := ⟨rfl, fun _ => rfl, fun _ => rfl⟩

theorem SameSlots.trans {s t u : State} (h : SameSlots s t) (k : SameSlots t u) : SameSlots s u :=
  ⟨k.list.trans h.list, fun n => (k.arming n).trans (h.arming n), fun n => (k.generation n).trans (h.generation n)⟩

theorem SameSlots.of_eq {s t : State} (hl : t.deadlineList = s.deadlineList) (hs : t.slots = s.slots) : SameSlots s t :=
  ⟨hl, fun n => by rw [hs], fun n => by rw [hs]⟩

section
variable (s : State)
theorem withTime_sameSlots (x : TimeBase) : SameSlots s (s.withTime x) := .of_eq rfl rfl
theorem withGroups_sameSlots (x : Vector GroupState 16) : SameSlots s (s.withGroups x) := .of_eq rfl rfl
theorem withLines_sameSlots (x : Vector OutputLine 16) : SameSlots s (s.withLines x) := .of_eq rfl rfl
theorem withConfigurationPresent_sameSlots (x : Bool) : SameSlots s (s.withConfigurationPresent x) := .of_eq rfl rfl
theorem withInputs_sameSlots (x : Vector InputLine 8) : SameSlots s (s.withInputs x) := .of_eq rfl rfl
theorem withTrip_sameSlots (x : TripUnit) : SameSlots s (s.withTrip x) := .of_eq rfl rfl
theorem withFetch_sameSlots (x : FetchUnit) : SameSlots s (s.withFetch x) := .of_eq rfl rfl
theorem withWriter_sameSlots (x : CompletionWriter) : SameSlots s (s.withWriter x) := .of_eq rfl rfl
theorem withControl_sameSlots (x : ControlBlock) : SameSlots s (s.withControl x) := .of_eq rfl rfl
theorem withFreeCount_sameSlots (x : Nat) : SameSlots s (s.withFreeCount x) := .of_eq rfl rfl
end

theorem recordEvent_sameSlots (src : Source) (o : Occurrence) (makesPending : Bool) (s : State) :
    SameSlots s (s.recordEvent src o makesPending) :=
  ⟨State.recordEvent_deadlineList _ _ _ s, fun n => (State.recordEvent_slot src o makesPending s n).1,
    fun n => (State.recordEvent_slot src o makesPending s n).2⟩

theorem raise_sameSlots (r : Raise) (s : State) : SameSlots s (s.raise r) :=
  .of_eq (State.raise_deadlineList r s) (State.raise_slots r s)

theorem beginEdge_sameSlots (n : InputNumber) (s : State) : SameSlots s (beginEdge n s) := by
  rcases beginEdge_cases n s with ⟨e, -, h⟩ | ⟨-, -, h⟩ | ⟨level, -, -, h⟩ <;> rw [h]
  · exact .refl s
  · exact .refl s
  · exact withInputs_sameSlots s _

theorem reevaluate_sameSlots (n : InputNumber) (s : State) : SameSlots s (s.reevaluate n) := by
  rcases reevaluate_cases n s with ⟨-, h⟩ | ⟨-, -, h⟩ | ⟨-, -, h⟩ <;> rw [h]
  · exact .refl s
  · exact (withInputs_sameSlots s _).trans (raise_sameSlots _ _)
  · exact (withInputs_sameSlots s _).trans (withTrip_sameSlots _ _)

theorem TimersKept.sameSlots {s t : State} (h : TimersKept s t) : SameSlots s t := ⟨h.list, h.arming, h.generation⟩

theorem signalCompletion_sameSlots (s : State) : SameSlots s (signalCompletion s) := (signalCompletion_timers s).sameSlots

theorem applyBlock_sameSlots (b : ConfigBlock) (s : State) : SameSlots s (applyBlock b s) :=
  (((((withLines_sameSlots s _).trans (withConfigurationPresent_sameSlots _ _)).trans (withFetch_sameSlots _ _)).trans
    (withWriter_sameSlots _ _)).trans (withTime_sameSlots _ _)).trans (withControl_sameSlots _ _)

theorem beginTick_sameSlots (pins : BitVec 8) (s : State) : SameSlots s (beginTick pins s) :=
  ((withTime_sameSlots s _).trans (withInputs_sameSlots _ _)).trans (withWriter_sameSlots _ _)

/-! ## The list under a change of a slot -/

theorem SameSlots.deadlineListSound {s t : State} (h : SameSlots s t) (hs : DeadlineListSound s) : DeadlineListSound t :=
  hs.congr h.list h.arming

theorem insertDeadline_congr {v w : Vector Slot 256} (h : ∀ m : SlotNumber, v[m].arming = w[m].arming) (n : SlotNumber)
    (l : List SlotNumber) : insertDeadline v n l = insertDeadline w n l := by
  induction l with
  | nil => rfl
  | cons m l ih => simp only [insertDeadline, deadlineKey_congr (h n), deadlineKey_congr (h m), ih]

theorem relist_congr {v w : Vector Slot 256} (h : ∀ m : SlotNumber, v[m].arming = w[m].arming) (n : SlotNumber)
    (l : List SlotNumber) : relist v n l = relist w n l := by
  simp only [relist, insertDeadline_congr h, Slot.deadline?_congr (h n)]

/-- Of a slot that is set, the deadline list sees the arming alone. -/
theorem putSlot_arming (n : SlotNumber) (sl : Slot) (s : State) (m : SlotNumber) :
    (s.putSlot n sl).slots[m].arming = (s.putArming n sl.arming).slots[m].arming := by
  by_cases h : m = n
  · subst h; rw [State.putSlot_slot, State.putArming_slot]
  · rw [State.putSlot_slot_ne sl s h, State.putArming_slot_ne _ s h]

theorem putSlot_deadlineListSound {s : State} (h : DeadlineListSound s) (n : SlotNumber) (sl : Slot) :
    DeadlineListSound (s.putSlot n sl) := by
  have list : (s.putSlot n sl).deadlineList = (s.putArming n sl.arming).deadlineList :=
    relist_congr (putSlot_arming n sl s) n s.deadlineList
  exact (h.putArming n sl.arming).congr list (putSlot_arming n sl s)

theorem cancelSlot_deadlineListSound {s : State} (h : DeadlineListSound s) (n : SlotNumber) :
    DeadlineListSound (cancelSlot n s) := by
  unfold cancelSlot
  dsimp only
  split
  · exact (withWriter_sameSlots _ _).deadlineListSound (putSlot_deadlineListSound h n _)
  · exact putSlot_deadlineListSound h n _

/-! ## The list under a time step (R14) -/

theorem Slot.step_deadline?_isSome (k : Int) (sl : Slot) :
    ((sl.step k).deadline?).isSome = (sl.deadline?).isSome := by
  unfold Slot.step Slot.deadline?
  cases ha : sl.arming with
  | none => rfl
  | some a =>
    cases hm : a.movesWithStep <;> cases hp : a.phase <;> simp [Arming.step, Arming.deadline?, Phase.step, hm, hp]

theorem sortDeadlines_pairwise (slots : Vector Slot 256) {l : List SlotNumber} (h : l.Nodup) :
    (sortDeadlines slots l).Pairwise fun n m => deadlineKey slots n < deadlineKey slots m := by
  induction l with
  | nil => exact .nil
  | cons n l ih =>
    obtain ⟨hn, hl⟩ := List.nodup_cons.1 h
    refine insertDeadline_pairwise slots n _ (ih hl) fun m hm hkey => hn ?_
    rw [← deadlineKey_injective slots hkey]
    exact (sortDeadlines_perm slots l).mem_iff.1 hm

theorem deadlineList_nodup {s : State} (h : DeadlineListSound s) : s.deadlineList.Nodup :=
  h.1.imp fun {n m} hlt heq => by rw [heq] at hlt; exact Nat.lt_irrefl _ hlt

theorem moveTime_slots (k : Int) (s : State) : (moveTime k s).slots = s.slots.map (Slot.step k) := by
  simp [moveTime, takePulseEnds]

theorem moveTime_slot (k : Int) (s : State) (n : SlotNumber) : (moveTime k s).slots[n] = s.slots[n].step k := by
  rw [moveTime_slots]; exact Vector.getElem_map ..

theorem moveTime_deadlineList (k : Int) (s : State) :
    (moveTime k s).deadlineList = sortDeadlines (s.slots.map (Slot.step k)) s.deadlineList := by
  simp [moveTime, takePulseEnds]

theorem moveTime_deadlineListSound (k : Int) {s : State} (h : DeadlineListSound s) : DeadlineListSound (moveTime k s) := by
  refine ⟨?_, fun n => ?_⟩
  · rw [moveTime_slots, moveTime_deadlineList]
    exact sortDeadlines_pairwise _ (deadlineList_nodup h)
  · rw [moveTime_deadlineList, (sortDeadlines_perm _ _).mem_iff, h.2 n, moveTime_slot, Slot.step_deadline?_isSome]

/-! ## Every step keeps the list (R41, R42) -/

theorem Act.deadlineListSound {s t : State} (h : Act s t) (hs : DeadlineListSound s) : DeadlineListSound t := by
  cases h with
  | arming n a => exact hs.putArming n a
  | action x => exact (SameSlots.of_eq (s.performAction_deadlineList x) (s.performAction_slots x)).deadlineListSound hs
  | event src o makesPending => exact (recordEvent_sameSlots src o makesPending s).deadlineListSound hs
  | raise r => exact (raise_sameSlots r s).deadlineListSound hs
  | accept n => exact (beginEdge_sameSlots n s).deadlineListSound hs
  | reevaluate n => exact (reevaluate_sameSlots n s).deadlineListSound hs
  | signal => exact (signalCompletion_sameSlots s).deadlineListSound hs
  | mark n => exact (withInputs_sameSlots s _).deadlineListSound hs
  | _ => exact (withLines_sameSlots s _).deadlineListSound hs

theorem RequestAct.deadlineListSound {k : RequestKind} {s t : State} (h : RequestAct k s t) (hs : DeadlineListSound s) :
    DeadlineListSound t := by
  cases h with
  | act h => exact h.deadlineListSound hs
  | groups r g => exact (withGroups_sameSlots s _).deadlineListSound hs
  | arm _ n sl => exact putSlot_deadlineListSound hs n sl
  | cancel n => exact cancelSlot_deadlineListSound hs n
  | move d => exact moveTime_deadlineListSound d hs
  | configure n f l => exact (withInputs_sameSlots s _).deadlineListSound hs
  | free => exact (withFreeCount_sameSlots s _).deadlineListSound hs
  | fence => exact (withWriter_sameSlots s _).deadlineListSound hs
  | clear => exact (withTrip_sameSlots s _).deadlineListSound hs

/-- A list of no entries is sound when every slot is IDLE. -/
theorem deadlineListSound_of_idle {s : State} (hl : s.deadlineList = []) (h : ∀ n : SlotNumber, s.slots[n].arming = none) :
    DeadlineListSound s := by
  refine ⟨by rw [hl]; exact .nil, fun n => ?_⟩
  rw [hl, Slot.deadline?, h n]
  simp

theorem reset_slot (n : SlotNumber) : State.reset.slots[n] = Slot.reset := by
  simp [State.reset]

theorem controllerReset_slot (s : State) (n : SlotNumber) :
    (controllerReset s).slots[n] = s.slots[n].controllerReset := by
  simp [controllerReset]

/-- Settles O50: the armings change one at a time, each with its entry of the list; a time step moves deadlines without
making or ending one, and brings the list into order again. -/
theorem deadlineListIsKept : Obligations.DeadlineListIsKept :=
  timersKeptByEveryStep (fun _ _ h => h.sameSlots.deadlineListSound) (fun _ _ h => h.deadlineListSound)
    (fun _ _ _ h => h.deadlineListSound) (fun pins _ _ => (beginTick_sameSlots pins _).deadlineListSound)
    (fun s => (withTime_sameSlots s _).deadlineListSound)
    (deadlineListSound_of_idle rfl fun n => congrArg Slot.arming (reset_slot n))
    (fun s _ => deadlineListSound_of_idle rfl fun n => congrArg Slot.arming (controllerReset_slot s n))
    (fun b s => (applyBlock_sameSlots b s).deadlineListSound)

/-! ## Generations (R19) -/

theorem putSlot_generation (n : SlotNumber) (sl : Slot) (s : State) (h : sl.generation = s.slots[n].generation)
    (m : SlotNumber) : (s.putSlot n sl).slots[m].generation = s.slots[m].generation := by
  by_cases hm : m = n
  · subst hm; rw [State.putSlot_slot, h]
  · rw [State.putSlot_slot_ne sl s hm]

theorem cancelSlot_generation (n : SlotNumber) (s : State) (m : SlotNumber) :
    (cancelSlot n s).slots[m].generation = s.slots[m].generation := by
  unfold cancelSlot
  dsimp only
  split <;> exact putSlot_generation n { s.slots[n] with arming := none, report := s.slots[n].report.cancel } s rfl m

/-- Of the elementary changes of requests, the arming alone changes a generation. -/
theorem RequestAct.generation {k : RequestKind} (hk : k ≠ .arm) {s t : State} (h : RequestAct k s t) (n : SlotNumber) :
    t.slots[n].generation = s.slots[n].generation := by
  cases h with
  | act h => exact h.still.generation n
  | groups r g => exact (withGroups_sameSlots s _).generation n
  | arm h => exact absurd h hk
  | cancel m => exact cancelSlot_generation m s n
  | move d => rw [moveTime_slot]; rfl
  | configure m f l => exact (withInputs_sameSlots s _).generation n
  | _ => rfl

theorem RequestActs.generation {k : RequestKind} (hk : k ≠ .arm) {s t : State} (h : RequestActs k s t) (n : SlotNumber) :
    t.slots[n].generation = s.slots[n].generation := by
  induction h with
  | refl => rfl
  | tail _ hstep ih => exact (hstep.generation hk n).trans ih

/-- The kind byte that names a kind is its code (R139). -/
theorem code_of_ofCode? {b : Byte} {k : RequestKind} (h : RequestKind.ofCode? b = some k) : b = k.code := by
  have hlt : b.toNat < 17 := by
    by_contra hge
    rw [ofCode?_eq_none (by omega)] at h
    exact nomatch h
  have hb : b = BitVec.ofNat 8 b.toNat := by simp
  rw [hb] at h ⊢
  generalize b.toNat = m at h hlt
  interval_cases m <;> exact Option.some.inj h ▸ rfl

/-- Settles O59: beyond the resets a generation changes in a request of kind ARM alone, and its row and the data with
its code are the rows left out. -/
theorem onlyArmChangesGenerations : Obligations.OnlyArmChangesGenerations := by
  intro c s hpower harm hdata
  obtain ⟨t, ht⟩ := exec_answers c s
  refine ⟨t, ht, fun n => ?_⟩
  cases (exec_move ht).timerMove with
  | acts before h after => exact (after.generation n).trans ((h.still.generation n).trans (before.generation n))
  | tick pins => exact ((beginTick_sameSlots pins _).generation n).trans ((finishTick_acts s).still.generation n)
  | request k hk h after =>
    refine (after.generation n).trans (h.generation (fun hka => ?_) n)
    subst hka
    rcases hk with ⟨r, hr⟩ | ⟨access, data, hc, hcode⟩
    · cases c <;> simp [requestOf] at hr
      exact harm _ rfl
    · exact hdata access data hc (code_of_ofCode? hcode)
  | powerOn h => exact absurd h hpower
  | reset => rw [controllerReset_slot]; rfl
  | apply b => exact (applyBlock_sameSlots b s).generation n

end Sys2Proof.Proofs
end

section
/-! # The report queue

The queue and the pending reports change together: an event queues its source, an acknowledgement takes the source out, the
resets empty both. Every step keeps the queue equal to the sources whose report is pending (R151, R156, R157). -/

namespace Sys2Proof.Proofs
open Sys2Proof.Machine Sys2Proof.Claims

/-! ## Changes that leave the queue -/

/-- The queue and every report state are as before, and a report write in flight was in flight before. -/
structure SameReports (s t : State) : Prop where
  queue : t.writer.queue = s.writer.queue
  state : ∀ src, (t.report src).state = (s.report src).state
  flight : ∀ w src formed, t.writer.inFlight = some w → w.source = .report src formed →
    ∃ v, s.writer.inFlight = some v ∧ v.source = .report src formed

theorem SameReports.refl (s : State) : SameReports s s := ⟨rfl, fun _ => rfl, fun w _ _ hw h => ⟨w, hw, h⟩⟩

theorem SameReports.trans {s t u : State} (h : SameReports s t) (k : SameReports t u) : SameReports s u where
  queue := k.queue.trans h.queue
  state src := (k.state src).trans (h.state src)
  flight w src formed hw hsrc := by
    obtain ⟨v, hv, hvsrc⟩ := k.flight w src formed hw hsrc
    exact h.flight v src formed hv hvsrc

theorem report_congr {s t : State} (hs : t.slots = s.slots) (he : t.writer.controllerEntry = s.writer.controllerEntry)
    (src : Source) : t.report src = s.report src := by
  cases src with
  | slot n => simp only [State.report, hs]
  | controller => exact he

theorem SameReports.of_eq {s t : State} (hs : t.slots = s.slots) (hw : t.writer = s.writer) : SameReports s t :=
  ⟨by rw [hw], fun src => by rw [report_congr hs (by rw [hw])], fun w _ _ hf h => ⟨w, hw ▸ hf, h⟩⟩

theorem withWriter_sameReports (s : State) {x : CompletionWriter} (hq : x.queue = s.writer.queue)
    (he : x.controllerEntry = s.writer.controllerEntry) (hf : x.inFlight = s.writer.inFlight ∨ x.inFlight = none) :
    SameReports s (s.withWriter x) where
  queue := hq
  state src := congrArg Report.state (report_congr (s := s) (t := s.withWriter x) rfl he src)
  flight w src formed hw hsrc := by
    rcases hf with hf | hf
    · exact ⟨w, hf.symm.trans hw, hsrc⟩
    · exact nomatch hf.symm.trans hw

section
variable (s : State)
theorem withTime_sameReports (x : TimeBase) : SameReports s (s.withTime x) := .of_eq rfl rfl
theorem withGroups_sameReports (x : Vector GroupState 16) : SameReports s (s.withGroups x) := .of_eq rfl rfl
theorem withLines_sameReports (x : Vector OutputLine 16) : SameReports s (s.withLines x) := .of_eq rfl rfl
theorem withInputs_sameReports (x : Vector InputLine 8) : SameReports s (s.withInputs x) := .of_eq rfl rfl
theorem withTrip_sameReports (x : TripUnit) : SameReports s (s.withTrip x) := .of_eq rfl rfl
theorem withFetch_sameReports (x : FetchUnit) : SameReports s (s.withFetch x) := .of_eq rfl rfl
theorem withHeld_sameReports (x : Option HeldResponse) : SameReports s (s.withHeld x) := .of_eq rfl rfl
theorem withControl_sameReports (x : ControlBlock) : SameReports s (s.withControl x) := .of_eq rfl rfl
theorem withFreeCount_sameReports (x : Nat) : SameReports s (s.withFreeCount x) := .of_eq rfl rfl
end

theorem SameReports.sound {s t : State} (h : SameReports s t) (hs : ReportQueueSound s) : ReportQueueSound t := by
  obtain ⟨nodup, members, head⟩ := hs
  refine ⟨by rw [h.queue]; exact nodup, fun src => by rw [h.queue, h.state, members], fun w src formed hw hsrc => ?_⟩
  obtain ⟨v, hv, hvsrc⟩ := h.flight w src formed hw hsrc
  rw [h.queue]
  exact head v src formed hv hvsrc

/-- A note leaves the source of the write in flight. -/
theorem noteWrite_sameReports (src : Source) (f : CompletionWrite → CompletionWrite) (hf : ∀ w, (f w).source = w.source)
    (s : State) : SameReports s (s.noteWrite src f) where
  queue := rfl
  state src' := congrArg Report.state (State.noteWrite_report src src' f s)
  flight w src' formed hw hsrc := by
    obtain ⟨v, hv, rfl⟩ := Option.map_eq_some_iff.1 hw
    refine ⟨v, hv, ?_⟩
    split at hsrc
    · rw [← hf v]; exact hsrc
    · exact hsrc

/-- A report set with its state kept. -/
theorem putReport_sameReports (src : Source) (r : Report) (s : State) (h : r.state = (s.report src).state) :
    SameReports s (s.putReport src r) where
  queue := by rw [State.putReport_frame]
  state src' := by
    by_cases hsrc : src' = src
    · subst hsrc; rw [State.putReport_report, h]
    · rw [State.putReport_report_ne r s hsrc]
  flight w src' formed hw hsrc := ⟨w, (putReport_inFlight src r s).symm.trans hw, hsrc⟩

/-- A slot set with its report state kept. -/
theorem putSlot_sameReports (n : SlotNumber) (sl : Slot) (s : State) (h : sl.report.state = s.slots[n].report.state) :
    SameReports s (s.putSlot n sl) where
  queue := rfl
  state src := by
    cases src with
    | controller => rfl
    | slot m =>
      by_cases hm : m = n
      · subst hm; simp only [State.report, State.putSlot_slot, h]
      · simp only [State.report, State.putSlot_slot_ne sl s hm]
  flight w src formed hw hsrc := ⟨w, hw, hsrc⟩

theorem cancel_state (r : Report) : r.cancel.state = r.state := by
  unfold Report.cancel
  cases r.state <;> rfl

theorem cancelSlot_sameReports (n : SlotNumber) (s : State) : SameReports s (cancelSlot n s) := by
  have h := putSlot_sameReports n { s.slots[n] with arming := none, report := s.slots[n].report.cancel } s (cancel_state _)
  unfold cancelSlot
  dsimp only
  split
  · exact h.trans (noteWrite_sameReports _ (fun w => { w with cancelNoted := true }) (fun _ => rfl) _)
  · exact h

/-! ## An event (R150, R151, R156) -/

theorem putReport_queue (src : Source) (r : Report) (s : State) : (s.putReport src r).writer.queue = s.writer.queue := by
  rw [State.putReport_frame]

/-- An event that does not make the report pending leaves the queue and the write in flight. -/
theorem recordEvent_silent (src : Source) (o : Occurrence) (s : State) :
    (s.recordEvent src o false).writer.queue = s.writer.queue
      ∧ (s.recordEvent src o false).writer.inFlight = s.writer.inFlight :=
  ⟨putReport_queue src _ s, putReport_inFlight src _ s⟩

/-- An event that makes the report pending queues the source. -/
theorem recordEvent_joins {src : Source} {s : State} (h : (s.report src).state = .none) (o : Occurrence) :
    (s.recordEvent src o true).writer.queue = s.writer.queue ++ [src]
      ∧ (s.recordEvent src o true).writer.inFlight = s.writer.inFlight := by
  simp only [State.recordEvent, if_true, State.makePending, State.putReport_report, h]
  exact ⟨by simp only [State.enqueue, State.withWriter_writer, putReport_queue],
    by simp only [State.enqueue, State.withWriter_writer, putReport_inFlight]⟩

/-- An event on a source that stands in the queue leaves its place, and a write of it in flight notes the event. -/
theorem recordEvent_notes {src : Source} {s : State} (h : (s.report src).state = .pending) (o : Occurrence) :
    (s.recordEvent src o true).writer.queue = s.writer.queue
      ∧ (s.recordEvent src o true).writer.inFlight =
          s.writer.inFlight.map fun w => if w.carries src then { w with eventNoted := true } else w := by
  simp only [State.recordEvent, if_true, State.makePending, State.putReport_report, h]
  exact ⟨by simp only [State.noteWrite, State.withWriter_writer, putReport_queue],
    by simp only [State.noteWrite, State.withWriter_writer, putReport_inFlight]⟩

theorem recordEvent_state (src : Source) (o : Occurrence) (makesPending : Bool) (s : State) (src' : Source) :
    ((s.recordEvent src o makesPending).report src').state =
      if src' = src ∧ makesPending = true then .pending else (s.report src').state := by
  by_cases h : src' = src
  · subst h; rw [State.recordEvent_report]; cases makesPending <;> simp
  · rw [State.recordEvent_report_ne o makesPending s h]; simp [h]

/-- A source that joins the tail of the queue with its report. -/
theorem sound_of_joins {s t : State} {src : Source} (hs : ReportQueueSound s) (hnone : (s.report src).state = .none)
    (hq : t.writer.queue = s.writer.queue ++ [src])
    (hr : ∀ src', (t.report src').state = if src' = src then .pending else (s.report src').state)
    (hf : t.writer.inFlight = s.writer.inFlight) : ReportQueueSound t := by
  obtain ⟨nodup, members, head⟩ := hs
  have absent : src ∉ s.writer.queue := fun h => by rw [members, hnone] at h; exact nomatch h
  refine ⟨?_, fun src' => ?_, fun w src' formed hw hsrc => ?_⟩
  · rw [hq]
    exact nodup.append (List.nodup_singleton src) (List.disjoint_singleton.2 absent)
  · rw [hq, hr, List.mem_append, List.mem_singleton, members]
    by_cases h : src' = src <;> simp [h]
  · rw [hq, List.head?_append, head w src' formed (hf ▸ hw) hsrc]
    rfl

theorem recordEvent_queueSound (src : Source) (o : Occurrence) (makesPending : Bool) {s : State}
    (hs : ReportQueueSound s) : ReportQueueSound (s.recordEvent src o makesPending) := by
  cases makesPending with
  | false =>
    obtain ⟨hq, hf⟩ := recordEvent_silent src o s
    exact SameReports.sound ⟨hq, fun src' => by simp [recordEvent_state], fun w _ _ hw h => ⟨w, hf ▸ hw, h⟩⟩ hs
  | true =>
    cases hstate : (s.report src).state with
    | none =>
      obtain ⟨hq, hf⟩ := recordEvent_joins hstate o
      exact sound_of_joins hs hstate hq (fun src' => by simp [recordEvent_state]) hf
    | pending =>
      obtain ⟨hq, hf⟩ := recordEvent_notes hstate o
      refine SameReports.sound ⟨hq, fun src' => ?_, fun w src' formed hw h => ?_⟩ hs
      · rw [recordEvent_state]
        split
        · rename_i h; rw [h.1, hstate]
        · rfl
      · rw [hf] at hw
        obtain ⟨v, hv, rfl⟩ := Option.map_eq_some_iff.1 hw
        refine ⟨v, hv, ?_⟩
        split at h <;> exact h

/-- A raise is an event on the controller entry after a change of trip unit, lines and interrupt causes (R108 to R110). -/
theorem raise_eq_event (r : Raise) (s : State) :
    ∃ u : State, s.raise r = u.recordTripEvent ∧ u.slots = s.slots ∧ u.writer = s.writer := by
  unfold State.raise
  dsimp only
  split
  · exact ⟨_, rfl, rfl, rfl⟩
  · exact ⟨_, rfl, rfl, rfl⟩

theorem raise_queueSound (r : Raise) {s : State} (hs : ReportQueueSound s) : ReportQueueSound (s.raise r) := by
  obtain ⟨u, h, hslots, hwriter⟩ := raise_eq_event r s
  rw [h]
  exact recordEvent_queueSound .controller _ true ((SameReports.of_eq hslots hwriter).sound hs)

/-! ## The elementary changes -/

theorem signalCompletion_sameReports (s : State) : SameReports s (signalCompletion s) :=
  (withWriter_sameReports s (x := { s.writer with moderationCount := 0, delayTimer := none }) rfl rfl (.inl rfl)).trans
    (withControl_sameReports _ _)

theorem beginEdge_sameReports (n : InputNumber) (s : State) : SameReports s (beginEdge n s) := by
  rcases beginEdge_cases n s with ⟨e, -, h⟩ | ⟨-, -, h⟩ | ⟨level, -, -, h⟩ <;> rw [h]
  · exact .refl s
  · exact .refl s
  · exact withInputs_sameReports s _

theorem reevaluate_queueSound (n : InputNumber) {s : State} (hs : ReportQueueSound s) :
    ReportQueueSound (s.reevaluate n) := by
  rcases reevaluate_cases n s with ⟨-, h⟩ | ⟨-, -, h⟩ | ⟨-, -, h⟩ <;> rw [h]
  · exact hs
  · exact raise_queueSound _ ((withInputs_sameReports s _).sound hs)
  · exact ((withInputs_sameReports s _).trans (withTrip_sameReports _ _)).sound hs

theorem Act.queueSound {s t : State} (h : Act s t) (hs : ReportQueueSound s) : ReportQueueSound t := by
  cases h with
  | action x => exact (SameReports.of_eq (s.performAction_slots x) (s.performAction_writer x)).sound hs
  | pulseEnd n => exact (withLines_sameReports s _).sound hs
  | pulseEnds => exact (withLines_sameReports s _).sound hs
  | arming n a => exact (putSlot_sameReports n { s.slots[n] with arming := a } s rfl).sound hs
  | event src o makesPending => exact recordEvent_queueSound src o makesPending hs
  | raise r => exact raise_queueSound r hs
  | signal => exact (signalCompletion_sameReports s).sound hs
  | accept n => exact (beginEdge_sameReports n s).sound hs
  | mark n => exact (withInputs_sameReports s _).sound hs
  | reevaluate n => exact reevaluate_queueSound n hs

theorem report_state_of_not_pending {n : SlotNumber} {s : State} (h : s.slotPending n = false) :
    s.slots[n].report.state = .none := by
  unfold State.slotPending at h
  cases hs : s.slots[n].report.state
  · rfl
  · rw [hs] at h; exact nomatch h

/-- A time step keeps every report. -/
theorem moveTime_sameReports (k : Int) (s : State) : SameReports s (moveTime k s) := by
  refine ⟨?_, fun src => ?_, fun w _ _ hw h => ⟨w, ?_, h⟩⟩
  · simp [moveTime, takePulseEnds]
  · cases src with
    | slot n => simp only [State.report, moveTime_slot]; rfl
    | controller => simp [State.report, moveTime, takePulseEnds]
  · simpa [moveTime, takePulseEnds] using hw

theorem RequestAct.queueSound {k : RequestKind} {s t : State} (h : RequestAct k s t) (hs : ReportQueueSound s) :
    ReportQueueSound t := by
  cases h with
  | act h => exact h.queueSound hs
  | groups r g => exact (withGroups_sameReports s _).sound hs
  | arm _ n sl hpending hempty =>
    exact (putSlot_sameReports n sl s (by rw [report_state_of_not_pending hpending, hempty]; rfl)).sound hs
  | cancel n => exact (cancelSlot_sameReports n s).sound hs
  | configure n f l => exact (withInputs_sameReports s _).sound hs
  | free => exact (withFreeCount_sameReports s _).sound hs
  | fence =>
    exact (withWriter_sameReports s (x := { s.writer with fenceMark := some s.writer.queue.length }) rfl rfl
      (.inl rfl)).sound hs
  | clear => exact (withTrip_sameReports s _).sound hs
  | move d => exact (moveTime_sameReports d s).sound hs

/-! ## The moves -/

/-- An empty queue is sound when no report is pending and no write is in flight. -/
theorem queueSound_of_empty {s : State} (hq : s.writer.queue = []) (hr : ∀ src, (s.report src).state = .none)
    (hf : s.writer.inFlight = none) : ReportQueueSound s := by
  refine ⟨by rw [hq]; exact .nil, fun src => by rw [hq, hr]; simp, fun w _ _ hw => ?_⟩
  rw [hf] at hw
  exact nomatch hw

theorem settlePause_sameReports (s : State) : SameReports s s.settlePause := by
  rcases State.settlePause_cases s with ⟨-, -, -, h⟩ | ⟨-, h⟩ <;> rw [h]
  · exact withControl_sameReports s _
  · exact .refl s

theorem enterFaulted_queueSound (cause : FaultCause) {s : State} (hs : ReportQueueSound s) :
    ReportQueueSound (s.enterFaulted cause) := by
  have faulted (c : ControlBlock) (f : FetchUnit) : ReportQueueSound (((s.withControl c).withFetch f).setCause intFault) :=
    (((withControl_sameReports s c).trans (withFetch_sameReports _ f)).trans (withControl_sameReports _ _)).sound hs
  unfold State.enterFaulted
  dsimp only
  split
  · exact raise_queueSound _ (faulted _ _)
  · exact faulted _ _

theorem countRecord_sameReports (s : State) : SameReports s (countRecord s) := by
  unfold countRecord
  dsimp only
  split
  · exact signalCompletion_sameReports s
  · exact withWriter_sameReports s rfl rfl (.inl rfl)

theorem returnRecord_sameReports (w : CompletionWrite) (s : State) : SameReports s (returnRecord w s) := by
  have ended : SameReports s (s.withWriter { s.writer with inFlight := none }) :=
    withWriter_sameReports s rfl rfl (.inr rfl)
  unfold returnRecord
  dsimp only
  split
  · exact ended
  · exact ended.trans (putReport_sameReports _ _ _ (ended.state _).symm)

theorem loaded_sameReports (b : ConfigBlock) (s : State) (lines : Vector OutputLine 16) (present : Bool) (f : FetchUnit)
    (x : TimeBase) (c : ControlBlock) :
    SameReports s (((((s.withLines lines).withConfigurationPresent present).withFetch f).withWriter
      (s.writer.load b)).withTime x |>.withControl c) where
  queue := rfl
  state src := by cases src <;> rfl
  flight w _ _ hw h := ⟨w, hw, h⟩

theorem applyBlock_sameReports (b : ConfigBlock) (s : State) : SameReports s (applyBlock b s) :=
  loaded_sameReports b s _ _ _ _ _

theorem beginTick_sameReports (pins : BitVec 8) (s : State) : SameReports s (beginTick pins s) :=
  ((withTime_sameReports s _).trans (withInputs_sameReports _ _)).trans (withWriter_sameReports _ rfl rfl (.inl rfl))

/-- A report chosen for a write heads the queue (R154). -/
theorem choose_report {s : State} {src : Source} (h : s.choose = .report src) : s.writer.queue.head? = some src := by
  unfold State.choose at h
  split at h
  · exact nomatch h
  · exact nomatch h
  · rename_i x hx; rw [← Choice.report.inj h]; exact hx
  · rename_i r x _ hx
    split at h
    · rw [← Choice.report.inj h]; exact hx
    · exact nomatch h

theorem issueReport_queue (src : Source) (s : State) : (issueReport src s).writer.queue = s.writer.queue :=
  putReport_queue _ _ _

theorem issueReport_inFlight (src : Source) (s : State) :
    (issueReport src s).writer.inFlight = some (s.writeOf (.report src (s.report src).fields)
      (reportRecord src (s.report src).fields (s.reportGeneration src) s.fetch.head s.writer.nextSequence)) :=
  putReport_inFlight _ _ _

/-- The issue empties the fields of its source but for event time and tag (R156). -/
theorem issueReport_report (src : Source) (s : State) :
    (issueReport src s).report src = { s.report src with fields := (s.report src).fields.issued } :=
  State.putReport_report _ _ _

theorem issueReport_report_ne {src src' : Source} (h : src' ≠ src) (s : State) :
    (issueReport src s).report src' = s.report src' :=
  (State.putReport_report_ne _ _ h).trans (report_congr (s := s) (t := s.withWriter _) rfl rfl src')

theorem issueReport_queueSound {src : Source} {s : State} (hs : ReportQueueSound s)
    (hhead : s.writer.queue.head? = some src) : ReportQueueSound (issueReport src s) := by
  obtain ⟨nodup, members, -⟩ := hs
  have state (src' : Source) : ((issueReport src s).report src').state = (s.report src').state := by
    by_cases h : src' = src
    · subst h; rw [issueReport_report]
    · rw [issueReport_report_ne h]
  refine ⟨?_, fun src' => ?_, fun w src' formed hw hsrc => ?_⟩
  · rw [issueReport_queue]; exact nodup
  · rw [issueReport_queue, state, members]
  · rw [issueReport_inFlight] at hw
    obtain rfl := Option.some.inj hw
    rw [issueReport_queue, hhead, (WriteSource.report.inj hsrc).1]

theorem issueResponse_queueSound (r : HeldResponse) {s : State} (hs : ReportQueueSound s) :
    ReportQueueSound (issueResponse r s) := by
  have same : SameReports s (issueResponse r s) :=
    { queue := rfl
      state := fun src => congrArg Report.state (report_congr (s := s) (t := issueResponse r s) rfl rfl src)
      flight := fun w src formed hw h => by obtain rfl := Option.some.inj hw; exact nomatch h }
  exact same.sound hs

/-! ## The acknowledgement of a report (R157) -/

theorem leaveQueue_queue (src : Source) (rejoins : Bool) (s : State) :
    (leaveQueue src rejoins s).writer.queue = s.writer.queue.erase src ++ if rejoins then [src] else [] := by
  cases rejoins
  · exact (putReport_queue _ _ _).trans (List.append_nil _).symm
  · exact congrArg (· ++ [src]) (putReport_queue _ _ _)

theorem leaveQueue_inFlight (src : Source) (rejoins : Bool) (s : State) :
    (leaveQueue src rejoins s).writer.inFlight = s.writer.inFlight := by
  cases rejoins <;> exact putReport_inFlight _ _ _

theorem leaveQueue_report (src : Source) (rejoins : Bool) (s : State) :
    (leaveQueue src rejoins s).report src = (s.report src).acknowledged rejoins := by
  cases rejoins
  · exact State.putReport_report _ _ _
  · exact (State.enqueue_report _ _ _).trans (State.putReport_report _ _ _)

theorem leaveQueue_report_ne {src src' : Source} (h : src' ≠ src) (rejoins : Bool) (s : State) :
    (leaveQueue src rejoins s).report src' = s.report src' := by
  have left (r : Report) :
      ((s.withWriter { s.writer with queue := s.writer.queue.erase src }).putReport src r).report src' = s.report src' :=
    (State.putReport_report_ne _ _ h).trans (report_congr (s := s) (t := s.withWriter _) rfl rfl src')
  cases rejoins
  · exact left _
  · exact (State.enqueue_report _ _ _).trans (left _)

theorem acknowledged_state (rejoins : Bool) (r : Report) :
    (r.acknowledged rejoins).state = if rejoins then .pending else .none := by
  cases rejoins
  · simp only [Report.acknowledged, Bool.false_eq_true, if_false]
    split <;> rfl
  · rfl

theorem leaveQueue_queueSound (src : Source) (rejoins : Bool) {s : State} (hs : ReportQueueSound s)
    (hflight : s.writer.inFlight = none) : ReportQueueSound (leaveQueue src rejoins s) := by
  obtain ⟨nodup, members, -⟩ := hs
  refine ⟨?_, fun src' => ?_, fun w src' formed hw => ?_⟩
  · rw [leaveQueue_queue]
    refine (nodup.erase src).append (by cases rejoins <;> simp) ?_
    cases rejoins <;> simp [nodup.mem_erase_iff]
  · rw [leaveQueue_queue, List.mem_append, nodup.mem_erase_iff, members]
    by_cases h : src' = src
    · subst h; rw [leaveQueue_report, acknowledged_state]; cases rejoins <;> simp
    · rw [leaveQueue_report_ne h]; cases rejoins <;> simp [h]
  · rw [leaveQueue_inFlight, hflight] at hw
    exact nomatch hw

theorem acknowledge_sameReports (fairness : Nat) (mark : Option Nat) (s : State) :
    SameReports s (s.withWriter (s.writer.acknowledge fairness mark)) := withWriter_sameReports s rfl rfl (.inr rfl)

theorem acknowledgeReport_queueSound (src : Source) (w : CompletionWrite) {s : State} (hs : ReportQueueSound s) :
    ReportQueueSound (acknowledgeReport src w s) :=
  (countRecord_sameReports _).sound
    (leaveQueue_queueSound src _ ((acknowledge_sameReports 0 (s.writer.fenceMark.map (· - 1)) s).sound hs) rfl)

theorem acknowledgeResponse_sameReports (w : CompletionWrite) (s : State) : SameReports s (acknowledgeResponse w s) :=
  (((acknowledge_sameReports _ _ s).trans (withHeld_sameReports _ none)).trans
    (settlePause_sameReports _)).trans (countRecord_sameReports _)

/-! ## Every step keeps the queue (R151, R156) -/

theorem reset_report (src : Source) : State.reset.report src = .empty := by
  cases src with
  | slot n => exact congrArg Slot.report (reset_slot n)
  | controller => rfl

theorem controllerReset_report (src : Source) (s : State) : (controllerReset s).report src = .empty := by
  cases src with
  | slot n => exact congrArg Slot.report (controllerReset_slot s n)
  | controller => rfl

theorem Move.queueSound {c : Instr} {s t : State} (h : Move c s t) (hs : ReportQueueSound s) : ReportQueueSound t := by
  have acts {u : State} (h : Acts s u) : ReportQueueSound u := acts_keep (fun _ _ h => h.queueSound) h hs
  have taken : ReportQueueSound (taken s) := (withFetch_sameReports s _).sound hs
  cases h with
  | stay => exact hs
  | expiry n => exact acts (takeExpiry_acts n s)
  | edge n share => exact acts (takeEdge_acts n share s)
  | pulseEnd n => exact (withLines_sameReports s _).sound hs
  | moderation => exact acts (moderationExpiry_acts s)
  | tick pins => exact (beginTick_sameReports pins _).sound (acts (finishTick_acts s))
  | powerOn =>
    exact queueSound_of_empty rfl
      (fun src => congrArg Report.state ((report_congr (s := State.reset) rfl rfl src).trans (reset_report src))) rfl
  | reset => exact queueSound_of_empty rfl (fun src => congrArg Report.state (controllerReset_report src s)) rfl
  | window x => exact (withControl_sameReports s x).sound hs
  | submitTail => exact (withFetch_sameReports s _).sound hs
  | completeHead => exact (withWriter_sameReports s rfl rfl (.inl rfl)).sound hs
  | dropFetch => exact (withFetch_sameReports s _).sound hs
  | dropWrite => exact (withWriter_sameReports s rfl rfl (.inl rfl)).sound hs
  | load origin => exact (withControl_sameReports s _).sound hs
  | pause => exact ((withControl_sameReports s _).trans (settlePause_sameReports _)).sound hs
  | resume => exact (withControl_sameReports s _).sound hs
  | readFails cause => exact enterFaulted_queueSound cause ((withControl_sameReports s _).sound hs)
  | readHolds b => exact ((withControl_sameReports s _).trans (withControl_sameReports _ _)).sound hs
  | apply b => exact (applyBlock_sameReports b s).sound hs
  | fetch => exact (withFetch_sameReports s _).sound hs
  | withdrawn => exact ((withFetch_sameReports s _).trans (settlePause_sameReports _)).sound hs
  | refused r status => exact (withHeld_sameReports _ _).sound taken
  | request k r =>
    exact (withHeld_sameReports _ _).sound (acts_keep (fun _ _ h => h.queueSound) (owner_acts k r _) taken)
  | fetchFails => exact enterFaulted_queueSound _ ((withFetch_sameReports s _).sound hs)
  | writeResponse r => exact issueResponse_queueSound r hs
  | writeReport src _ _ _ hc => exact issueReport_queueSound hs (choose_report hc)
  | reportAck w src => exact acknowledgeReport_queueSound src w hs
  | responseAck w => exact (acknowledgeResponse_sameReports w s).sound hs
  | writeFails w => exact enterFaulted_queueSound _ ((returnRecord_sameReports w s).sound hs)
  | writeReturns w => exact (returnRecord_sameReports w s).sound hs

/-- Settles O51: an event queues its source where its report becomes pending, an acknowledgement takes it out and may
queue it again, and nothing else but a reset moves queue or report states. -/
theorem reportQueueIsKept : Obligations.ReportQueueIsKept :=
  keptByEveryStep (fun _ _ h => h) (fun s h => (withTime_sameReports s _).sound h) fun _ _ _ => Move.queueSound

end Sys2Proof.Proofs
end

section
/-! # The trip unit: safe levels, causes, and who leaves TRIPPED

What each elementary change makes of the lines and of the trip unit, and the three statements about every step (R70, R78,
R104, R112). -/

namespace Sys2Proof.Proofs
open Sys2Proof.Machine Sys2Proof.Claims

/-! ## Lines that a trip holds (R70) -/

/-- A line as R70 wants it while TRIPPED: at its safe level without a pulse end, if it is enabled and participates. -/
def AtSafeLevel (l : OutputLine) : Prop :=
  ∀ d, l.drive = some d → l.participates = true → d = { level := l.safeLevel, pulseEnd := none }

theorem safeLevelsHeld_iff (s : State) :
    SafeLevelsHeld s ↔ (s.trip.state = .tripped → ∀ n : LineNumber, AtSafeLevel s.lines[n]) := Iff.rfl

theorem AtSafeLevel.of_map {l : OutputLine} (h : AtSafeLevel l) {f : Drive → Drive}
    (hf : ∀ level, f { level := level, pulseEnd := none } = { level := level, pulseEnd := none }) :
    AtSafeLevel { l with drive := l.drive.map f } := by
  intro d hd hp
  obtain ⟨e, he, rfl⟩ := Option.map_eq_some_iff.1 hd
  rw [h e he hp, hf]

theorem AtSafeLevel.endPulse {l : OutputLine} (h : AtSafeLevel l) (now : Time) : AtSafeLevel (l.endPulse now) :=
  h.of_map fun _ => rfl

theorem AtSafeLevel.step {l : OutputLine} (h : AtSafeLevel l) (k : Int) : AtSafeLevel (l.step k) :=
  h.of_map fun _ => rfl

theorem AtSafeLevel.controllerReset {l : OutputLine} (h : AtSafeLevel l) : AtSafeLevel l.controllerReset :=
  h.of_map fun _ => rfl

theorem forceSafe_atSafeLevel (l : OutputLine) : AtSafeLevel l.forceSafe := by
  unfold OutputLine.forceSafe
  split
  · intro d hd _
    obtain ⟨_, -, rfl⟩ := Option.map_eq_some_iff.1 hd
    rfl
  · rename_i hp
    exact fun _ _ hp' => absurd hp' hp

theorem load_atSafeLevel (b : ConfigBlock) (present : Bool) (n : LineNumber) (l : OutputLine) :
    AtSafeLevel (l.load b present true n) := by
  intro d hd hp
  simp only [OutputLine.load] at hd hp ⊢
  split at hd
  · obtain rfl := Option.some.inj hd
    unfold loadDrive loadLevel
    cases l.drive <;> simp [hp]
  · exact nomatch hd

/-! ## What the shared operations make of lines and trip unit -/

/-- An action changes its own line, and that only where no trip holds it. -/
theorem performAction_lines (x : Option Action) (s : State) :
    s.performAction x = s
      ∨ ∃ (n : LineNumber) (d : Option Drive), s.performAction x = s.putDrive n d ∧ s.lineTripped n = false := by
  unfold State.performAction
  split
  · exact .inl rfl
  · rename_i a
    split
    · rename_i h
      refine .inr ⟨a.line, _, rfl, ?_⟩
      simp only [State.actionOutcome] at h
      split at h
      · exact nomatch h
      · split at h
        · exact nomatch h
        · rename_i ht; exact Bool.eq_false_iff.2 ht
    · exact .inl rfl

theorem putDrive_line_ne {n m : LineNumber} (d : Option Drive) (s : State) (h : m ≠ n) :
    (s.putDrive n d).lines[m] = s.lines[m] := by
  have hv : n.val ≠ m.val := fun e => h (Fin.ext e.symm)
  simp [State.putDrive, Vector.getElem_set_ne, hv]

theorem putDrive_line (n : LineNumber) (d : Option Drive) (s : State) :
    (s.putDrive n d).lines[n] = { s.lines[n] with drive := d } := by
  simp [State.putDrive]

theorem raise_tripped (r : Raise) (s : State) : (s.raise r).trip.state = .tripped := by
  rw [State.raise_trip]
  cases h : s.trip.state
  · rfl
  · cases r <;> exact h

/-- A raise forces the safe levels on a trip entry alone (R69, R108, R109). -/
theorem raise_lines (r : Raise) (s : State) :
    (s.raise r).lines =
      match s.trip.state with
      | .clear => s.lines.map OutputLine.forceSafe
      | .tripped => s.lines := by
  unfold State.raise
  cases s.trip.state <;> simp only [State.recordTripEvent, State.recordEvent_lines] <;> rfl

theorem takePulseEnd_line (n m : LineNumber) (s : State) :
    (takePulseEnd n s).lines[m] = if m = n then s.lines[n].endPulse s.time.now else s.lines[m] := by
  by_cases h : m = n
  · subst h; simp [takePulseEnd]
  · have hv : n.val ≠ m.val := fun e => h (Fin.ext e.symm)
    simp [takePulseEnd, Vector.getElem_set_ne, hv, h]

theorem takePulseEnds_line (m : LineNumber) (s : State) :
    (takePulseEnds s).lines[m] = s.lines[m].endPulse s.time.now := by
  simp [takePulseEnds]

theorem moveTime_line (k : Int) (s : State) (m : LineNumber) :
    (moveTime k s).lines[m] = (s.lines[m].step k).endPulse (stepped s.time.now k) := by
  simp [moveTime, takePulseEnds, TimeBase.step]

theorem beginEdge_lines (n : InputNumber) (s : State) : (beginEdge n s).lines = s.lines := by
  rcases beginEdge_cases n s with ⟨e, -, h⟩ | ⟨-, -, h⟩ | ⟨level, -, -, h⟩ <;> rw [h]
  exact State.withInputs_lines s _

theorem beginEdge_trip (n : InputNumber) (s : State) : (beginEdge n s).trip = s.trip := by
  rcases beginEdge_cases n s with ⟨e, -, h⟩ | ⟨-, -, h⟩ | ⟨level, -, -, h⟩ <;> rw [h]
  exact State.withInputs_trip s _

theorem cancelSlot_lines (n : SlotNumber) (s : State) : (cancelSlot n s).lines = s.lines := by
  unfold cancelSlot
  dsimp only
  split <;> rfl

theorem cancelSlot_trip (n : SlotNumber) (s : State) : (cancelSlot n s).trip = s.trip := by
  unfold cancelSlot
  dsimp only
  split <;> rfl

theorem cancelSlot_inputs (n : SlotNumber) (s : State) : (cancelSlot n s).inputs = s.inputs := by
  unfold cancelSlot
  dsimp only
  split <;> rfl

theorem moveTime_trip (k : Int) (s : State) : (moveTime k s).trip = s.trip := by
  simp [moveTime, takePulseEnds]

theorem moveTime_inputs (k : Int) (s : State) : (moveTime k s).inputs = s.inputs := by
  simp [moveTime, takePulseEnds]

theorem beginTick_lines (pins : BitVec 8) (s : State) : (beginTick pins s).lines = s.lines := by
  simp [beginTick, tickDelay, sampleInputs]

theorem beginTick_trip (pins : BitVec 8) (s : State) : (beginTick pins s).trip = s.trip := by
  simp [beginTick, tickDelay, sampleInputs]

theorem beginTick_input (pins : BitVec 8) (s : State) (n : InputNumber) :
    (beginTick pins s).inputs[n] = s.inputs[n].sample (pins.getLsbD n.val) := by
  simp [beginTick, tickDelay, sampleInputs]

theorem controllerReset_line (s : State) (n : LineNumber) :
    (controllerReset s).lines[n] = s.lines[n].controllerReset := by
  simp [controllerReset]

theorem applyBlock_line (b : ConfigBlock) (s : State) (n : LineNumber) :
    (applyBlock b s).lines[n] = s.lines[n].load b s.configurationPresent (s.trip.state == .tripped) n := by
  simp [applyBlock, applyMasks]

theorem applyBlock_trip (b : ConfigBlock) (s : State) : (applyBlock b s).trip = s.trip := by
  simp [applyBlock, applyMasks]

theorem applyBlock_inputs (b : ConfigBlock) (s : State) : (applyBlock b s).inputs = s.inputs := by
  simp [applyBlock, applyMasks]

/-! ## Every step keeps the safe levels (R70) -/

theorem safeLevels_congr {s t : State} (hl : t.lines = s.lines) (ht : t.trip = s.trip) (hs : SafeLevelsHeld s) :
    SafeLevelsHeld t := by
  rw [safeLevelsHeld_iff, hl, ht]; exact hs

theorem raise_safeLevels (r : Raise) {s : State} (hs : SafeLevelsHeld s) : SafeLevelsHeld (s.raise r) := by
  intro _ n
  rw [raise_lines]
  cases h : s.trip.state with
  | clear =>
    have forced : (s.lines.map OutputLine.forceSafe)[n] = s.lines[n].forceSafe := Vector.getElem_map ..
    simp only [forced]
    exact forceSafe_atSafeLevel _
  | tripped => exact hs h n

theorem reevaluate_safeLevels (n : InputNumber) {s : State} (hs : SafeLevelsHeld s) : SafeLevelsHeld (s.reevaluate n) := by
  rcases reevaluate_cases n s with ⟨-, h⟩ | ⟨-, -, h⟩ | ⟨-, -, h⟩ <;> rw [h]
  · exact hs
  · exact raise_safeLevels _ (s := s.putInput n _) hs
  · exact hs

theorem Act.safeLevels {s t : State} (h : Act s t) (hs : SafeLevelsHeld s) : SafeLevelsHeld t := by
  cases h with
  | action x =>
    rcases performAction_lines x s with h | ⟨n, d, h, hn⟩ <;> rw [h]
    · exact hs
    · intro htripped m
      by_cases hm : m = n
      · subst hm
        rw [putDrive_line]
        intro _ _ hp
        have htripped : s.trip.state = .tripped := htripped
        have hp : s.lines[m].participates = true := hp
        simp [State.lineTripped, htripped, hp, -Fin.getElem_fin] at hn
      · rw [putDrive_line_ne d s hm]; exact hs htripped m
  | pulseEnd n =>
    intro htripped m
    rw [takePulseEnd_line]
    split
    · exact AtSafeLevel.endPulse (hs htripped n) _
    · exact hs htripped m
  | pulseEnds =>
    intro htripped m
    rw [takePulseEnds_line]
    exact AtSafeLevel.endPulse (hs htripped m) _
  | arming => exact hs
  | event => exact safeLevels_congr (by simp) (by simp) hs
  | raise r => exact raise_safeLevels r hs
  | signal => exact hs
  | accept n => exact safeLevels_congr (beginEdge_lines n s) (beginEdge_trip n s) hs
  | mark => exact hs
  | reevaluate n => exact reevaluate_safeLevels n hs

theorem RequestAct.safeLevels {k : RequestKind} {s t : State} (h : RequestAct k s t) (hs : SafeLevelsHeld s) :
    SafeLevelsHeld t := by
  cases h with
  | act h => exact h.safeLevels hs
  | cancel n => exact safeLevels_congr (cancelSlot_lines n s) (cancelSlot_trip n s) hs
  | clear => exact nofun
  | move d =>
    intro htripped n
    rw [moveTime_trip] at htripped
    rw [moveTime_line]
    exact AtSafeLevel.endPulse (AtSafeLevel.step (hs htripped n) d) _
  | groups => exact safeLevels_congr (State.withGroups_lines s _) (State.withGroups_trip s _) hs
  | configure => exact safeLevels_congr (State.withInputs_lines s _) (State.withInputs_trip s _) hs
  | _ => exact hs

theorem safeLevelsAreKept : SafeLevelsAreKept :=
  timersKeptByEveryStep (fun _ _ h => safeLevels_congr h.lines h.trip) (fun _ _ h => h.safeLevels)
    (fun _ _ _ h => h.safeLevels) (fun pins _ _ => safeLevels_congr (beginTick_lines pins _) (beginTick_trip pins _))
    (fun _ h => h) nofun
    (fun s hs htripped n => by rw [controllerReset_line]; exact AtSafeLevel.controllerReset (hs htripped n))
    (fun b s _ htripped n => by
      rw [applyBlock_trip] at htripped
      rw [applyBlock_line, htripped]
      exact load_atSafeLevel b _ n _)

/-! ## Causes and trip-level statuses (R78, R104) -/

theorem causes_congr {s t : State} (ht : t.trip = s.trip) (hi : ∀ n : InputNumber, t.inputs[n].active = s.inputs[n].active)
    (hs : CausesSound s) : CausesSound t := by
  refine ⟨by rw [ht]; exact hs.1, fun n => ?_⟩
  rw [ht, hi]
  exact hs.2 n

theorem putInput_input_ne {n m : InputNumber} (l : InputLine) (s : State) (h : m ≠ n) :
    (s.putInput n l).inputs[m] = s.inputs[m] := by
  have hv : n.val ≠ m.val := fun e => h (Fin.ext e.symm)
  simp [State.putInput, Vector.getElem_set_ne, hv]

/-- A line's record set with its trip-level status kept. -/
theorem putInput_active {n : InputNumber} {l : InputLine} {s : State} (h : l.active = s.inputs[n].active)
    (m : InputNumber) : (s.putInput n l).inputs[m].active = s.inputs[m].active := by
  by_cases hm : m = n
  · subst hm; rw [State.putInput_input, h]
  · rw [putInput_input_ne l s hm]

theorem putInput_causes {n : InputNumber} {l : InputLine} {s : State} (h : l.active = s.inputs[n].active)
    (hs : CausesSound s) : CausesSound (s.putInput n l) :=
  causes_congr (s := s) (t := s.putInput n l) rfl (putInput_active h) hs

theorem getLsbD_inputBit (n m : InputNumber) : (inputBit n).getLsbD m.val = decide (m = n) := by
  have hm : m.val < 8 := m.isLt
  have hn : n.val < 8 := n.isLt
  by_cases h : m = n
  · subst h; simp [inputBit]
  · have hv : m.val ≠ n.val := fun e => h (Fin.ext e)
    have : ¬ (m.val - n.val = 0 ∧ n.val ≤ m.val) := by omega
    simp only [inputBit, BitVec.getLsbD_shiftLeft, BitVec.getLsbD_one, hm, h, decide_true, Bool.true_and, decide_false,
      Bool.and_eq_false_imp, Bool.not_eq_true', decide_eq_false_iff_not, not_lt]
    simp
    omega

theorem addCause_inputCauses (r : Raise) (t : TripUnit) (n : InputNumber) :
    (t.addCause r).inputCauses.getLsbD n.val = (t.inputCauses.getLsbD n.val || decide (r = .input n)) := by
  cases r with
  | input m =>
    simp only [TripUnit.addCause, BitVec.getLsbD_or, getLsbD_inputBit, Raise.input.injEq, eq_comm]
  | _ => simp [TripUnit.addCause]

theorem raise_inputCauses (r : Raise) (s : State) (n : InputNumber) :
    (s.raise r).trip.inputCauses.getLsbD n.val = (s.trip.inputCauses.getLsbD n.val || decide (r = .input n)) := by
  rw [State.raise_trip, ← addCause_inputCauses]
  cases s.trip.state <;> rfl

theorem dropInputCause_inputCauses (n m : InputNumber) (s : State) :
    (s.dropInputCause n).trip.inputCauses.getLsbD m.val = (s.trip.inputCauses.getLsbD m.val && !decide (m = n)) := by
  have hm : m.val < 8 := m.isLt
  simp only [State.dropInputCause, State.withTrip_trip, BitVec.getLsbD_and, BitVec.getLsbD_not, getLsbD_inputBit, hm,
    decide_true, Bool.true_and]

theorem raise_causes {r : Raise} (h : ∀ n, r ≠ .input n) {s : State} (hs : CausesSound s) : CausesSound (s.raise r) := by
  refine ⟨fun hc => ?_, fun n => ?_⟩
  · rw [raise_tripped] at hc; exact nomatch hc
  · rw [raise_inputCauses, State.raise_inputs, hs.2 n]
    simp [h n]

/-- A device without a cause has none after one is taken away. -/
theorem anyCause_dropInputCause (n : InputNumber) {s : State} (h : s.trip.anyCause = false) :
    (s.dropInputCause n).trip.anyCause = false := by
  simp only [TripUnit.anyCause, Bool.or_eq_false_iff, bne_eq_false_iff_eq] at h
  obtain ⟨⟨⟨hi, hg⟩, hf⟩, hforced⟩ := h
  simp [State.dropInputCause, TripUnit.anyCause, hi, hg, hf, hforced]

theorem reevaluate_causes (n : InputNumber) {s : State} (hs : CausesSound s) : CausesSound (s.reevaluate n) := by
  rcases reevaluate_cases n s with ⟨-, h⟩ | ⟨-, -, h⟩ | ⟨-, -, h⟩ <;> rw [h]
  · exact hs
  · refine ⟨fun hc => ?_, fun m => ?_⟩
    · rw [raise_tripped] at hc; exact nomatch hc
    · rw [raise_inputCauses, State.raise_inputs]
      show (s.trip.inputCauses.getLsbD m.val || _) = _
      by_cases hm : m = n
      · subst hm; rw [State.putInput_input]; simp
      · rw [putInput_input_ne _ s hm, hs.2 m]; simp [Ne.symm hm]
  · refine ⟨fun hc => anyCause_dropInputCause n (hs.1 hc), fun m => ?_⟩
    rw [dropInputCause_inputCauses]
    show (s.trip.inputCauses.getLsbD m.val && _) = (s.putInput n _).inputs[m].active
    by_cases hm : m = n
    · subst hm; rw [State.putInput_input]; simp
    · rw [putInput_input_ne _ s hm, hs.2 m]; simp [hm]

theorem beginEdge_active (n m : InputNumber) (s : State) : (beginEdge n s).inputs[m].active = s.inputs[m].active := by
  rcases beginEdge_cases n s with ⟨e, -, h⟩ | ⟨-, -, h⟩ | ⟨level, -, -, h⟩ <;> rw [h]
  exact putInput_active (l := { s.inputs[n] with
    qualified := some level, candidate := none
    edge := some { level := level, time := s.time.now, next := 0, statusDue := true } }) rfl m

theorem Act.causes {s t : State} (h : Act s t) (hs : CausesSound s) : CausesSound t := by
  cases h with
  | action x => exact causes_congr (by simp) (fun n => by rw [State.performAction_frame]) hs
  | event => exact causes_congr (by simp) (fun n => by simp) hs
  | raise r hr => exact raise_causes hr hs
  | accept n => exact causes_congr (beginEdge_trip n s) (fun m => beginEdge_active n m s) hs
  | mark n => exact putInput_causes (l := { s.inputs[n] with edge := _ }) rfl hs
  | reevaluate n => exact reevaluate_causes n hs
  | pulseEnd => exact causes_congr (State.withLines_trip s _) (fun n => by rw [takePulseEnd, State.withLines_inputs]) hs
  | pulseEnds => exact causes_congr (State.withLines_trip s _) (fun n => by rw [takePulseEnds, State.withLines_inputs]) hs
  | _ => exact hs

theorem cleared_anyCause {t : TripUnit} (h : t.inputCauses = 0) : t.cleared.anyCause = false := by
  simp [TripUnit.anyCause, TripUnit.cleared, h]

theorem RequestAct.causes {k : RequestKind} {s t : State} (h : RequestAct k s t) (hs : CausesSound s) : CausesSound t := by
  cases h with
  | act h => exact h.causes hs
  | groups => exact causes_congr (State.withGroups_trip s _) (fun n => by rw [setGroups, State.withGroups_inputs]) hs
  | cancel n => exact causes_congr (cancelSlot_trip n s) (fun m => by rw [cancelSlot_inputs]) hs
  | configure n f l => exact putInput_causes (l := s.inputs[n].configure f l) rfl hs
  | clear _ h => exact ⟨fun _ => cleared_anyCause h, hs.2⟩
  | move d => exact causes_congr (moveTime_trip d s) (fun m => by rw [moveTime_inputs]) hs
  | _ => exact hs

theorem sample_active (level : Bool) (l : InputLine) : (l.sample level).active = l.active := by
  unfold InputLine.sample
  split
  · rfl
  · split <;> rfl

theorem reset_input (n : InputNumber) : State.reset.inputs[n] = InputLine.reset := by
  simp [State.reset]

theorem causesSound_reset : CausesSound .reset :=
  ⟨fun _ => rfl, fun n => by rw [reset_input]; simp [State.reset, TripUnit.reset, InputLine.reset]⟩

theorem causesAgreeWithTheInputs : CausesAgreeWithTheInputs :=
  timersKeptByEveryStep (fun _ _ h => causes_congr h.trip fun n => by rw [h.inputs]) (fun _ _ h => h.causes)
    (fun _ _ _ h => h.causes)
    (fun pins _ _ => causes_congr (beginTick_trip pins _) fun n => by rw [beginTick_input, sample_active])
    (fun _ h => h) causesSound_reset (fun _ h => h)
    (fun b s => causes_congr (applyBlock_trip b s) fun n => by rw [applyBlock_inputs])

/-- Settles O52: a raise forces the safe levels before anything can move them, an action leaves a line that a trip
holds, and an input cause is set and taken away with the status of its line. -/
theorem safeLevelsAndCausesAreKept : Obligations.SafeLevelsAndCausesAreKept :=
  ⟨safeLevelsAreKept, causesAgreeWithTheInputs⟩

/-! ## Who leaves TRIPPED (R112, R114, R115) -/

theorem reevaluate_tripped (n : InputNumber) {s : State} (hs : s.trip.state = .tripped) :
    (s.reevaluate n).trip.state = .tripped := by
  rcases reevaluate_cases n s with ⟨-, h⟩ | ⟨-, -, h⟩ | ⟨-, -, h⟩ <;> rw [h]
  · exact hs
  · exact raise_tripped _ _
  · exact hs

theorem Act.tripped {s t : State} (h : Act s t) (hs : s.trip.state = .tripped) : t.trip.state = .tripped := by
  cases h with
  | action => rw [State.performAction_trip]; exact hs
  | event => rw [State.recordEvent_trip]; exact hs
  | raise r => exact raise_tripped r s
  | accept n => rw [beginEdge_trip]; exact hs
  | reevaluate n => exact reevaluate_tripped n hs
  | _ => exact hs

theorem RequestAct.tripped {k : RequestKind} (hk : k ≠ .clearTrip) {s t : State} (h : RequestAct k s t)
    (hs : s.trip.state = .tripped) : t.trip.state = .tripped := by
  cases h with
  | act h => exact h.tripped hs
  | cancel n => rw [cancelSlot_trip]; exact hs
  | clear h => exact absurd h hk
  | move d => rw [moveTime_trip]; exact hs
  | groups => rw [setGroups, State.withGroups_trip]; exact hs
  | _ => exact hs

/-- Settles O33: beyond power-on reset the trip state becomes CLEAR in a request of kind CLEAR_TRIP alone. -/
theorem onlyClearTripLeavesTripped : Obligations.OnlyClearTripLeavesTripped := by
  intro c s hs hpower hclear hdata
  obtain ⟨t, ht⟩ := exec_answers c s
  refine ⟨t, ht, ?_⟩
  cases (exec_move ht).timerMove with
  | acts before h after =>
    rw [after.trip]
    exact acts_keep (Inv := fun s => s.trip.state = .tripped) (fun _ _ h => h.tripped) h (before.trip ▸ hs)
  | tick pins =>
    rw [beginTick_trip]
    exact acts_keep (Inv := fun s => s.trip.state = .tripped) (fun _ _ h => h.tripped) (finishTick_acts s) hs
  | request k hk h after =>
    rw [after.trip]
    refine acts_keep (Inv := fun s => s.trip.state = .tripped) (fun _ _ h => h.tripped fun hkc => ?_) h hs
    subst hkc
    rcases hk with ⟨r, hr⟩ | ⟨access, data, hc, hcode⟩
    · cases c <;> simp [requestOf] at hr
      exact hclear _ rfl
    · exact hdata access data hc (code_of_ofCode? hcode)
  | powerOn h => exact absurd h hpower
  | reset => exact hs
  | apply b => rw [applyBlock_trip]; exact hs

end Sys2Proof.Proofs
end

section
/-! # Traffic with memory

Each move in terms of controller, fetch unit, held response and write in flight, and what the controller state says of them
after every step (R119, R125, R137, R145). -/

namespace Sys2Proof.Proofs
open Sys2Proof.Machine Sys2Proof.Claims

/-! ## Moves up to what `Quiet` leaves open -/

theorem beginTick_quiet (pins : BitVec 8) (s : State) : Quiet s (beginTick pins s) := by
  have still (x : TimeBase) (i : Vector InputLine 8) : Quiet s (tickDelay ((s.withTime x).withInputs i)) :=
    ⟨rfl, rfl, rfl, rfl, rfl, rfl, rfl⟩
  exact still _ _

theorem putReport_quiet (src : Source) (r : Report) (s : State) : Quiet s (s.putReport src r) := by
  cases src <;> exact ⟨rfl, rfl, rfl, rfl, rfl, rfl, rfl⟩

theorem countRecord_quiet (s : State) : Quiet s (countRecord s) := by
  unfold countRecord
  dsimp only
  split <;> exact ⟨rfl, rfl, rfl, rfl, rfl, rfl, rfl⟩

theorem withQueue_quiet (q : List Source) (s : State) : Quiet s (s.withWriter { s.writer with queue := q }) :=
  ⟨rfl, rfl, rfl, rfl, rfl, rfl, rfl⟩

theorem leaveQueue_quiet (src : Source) (rejoins : Bool) (s : State) : Quiet s (leaveQueue src rejoins s) := by
  have left := (withQueue_quiet (s.writer.queue.erase src) s).trans
    (putReport_quiet src ((s.report src).acknowledged rejoins) _)
  cases rejoins
  · exact left
  · exact left.trans (withQueue_quiet _ _)

/-- The acknowledgement of a report, up to the report, the queue and the moderation. -/
theorem acknowledgeReport_quiet (src : Source) (w : CompletionWrite) (s : State) :
    Quiet (s.withWriter (s.writer.acknowledge 0 (s.writer.fenceMark.map (· - 1)))) (acknowledgeReport src w s) :=
  (leaveQueue_quiet src _ _).trans (countRecord_quiet _)

theorem issueReport_quiet (src : Source) (s : State) :
    Quiet (s.withWriter { s.writer with inFlight := (issueReport src s).writer.inFlight }) (issueReport src s) := by
  rw [issueReport_inFlight]
  exact putReport_quiet src _ _

theorem returnRecord_quiet (w : CompletionWrite) (s : State) :
    Quiet (s.withWriter { s.writer with inFlight := none }) (returnRecord w s) := by
  unfold returnRecord
  dsimp only
  split
  · exact .refl _
  · exact putReport_quiet _ _ _

/-- An entry into FAULTED, up to the interrupt causes and the raise (R127, R128). -/
theorem enterFaulted_quiet (cause : FaultCause) (s : State) :
    Quiet ((s.withControl { s.control with state := .faulted, origin := none, faultCause := cause }).withFetch
      s.fetch.discard) (s.enterFaulted cause) := by
  have hcause (u : State) : Quiet u (u.setCause intFault) := ⟨rfl, rfl, rfl, rfl, rfl, rfl, rfl⟩
  unfold State.enterFaulted
  dsimp only
  split
  · exact (hcause _).trans (raise_still _ _).toQuiet
  · exact hcause _

theorem discard_inFlight (f : FetchUnit) : f.discard.inFlight = none := by
  unfold FetchUnit.discard
  split
  · assumption
  · rfl

theorem discard_ring (f : FetchUnit) :
    f.discard.base = f.base ∧ f.discard.entries = f.entries ∧ f.discard.head = f.head ∧ f.discard.tail = f.tail := by
  unfold FetchUnit.discard
  split <;> exact ⟨rfl, rfl, rfl, rfl⟩

/-! ## The traffic invariants on what they speak of -/

/-- The traffic invariants speak of controller state, origin, configuration read and held block, of the fetch in flight and
the head, of the held response and of the source of the write in flight. -/
theorem traffic_congr {s t : State} (hstate : t.control.state = s.control.state)
    (horigin : t.control.origin = s.control.origin) (hread : t.control.configRead = s.control.configRead)
    (hblock : t.control.heldBlock = s.control.heldBlock) (hfetch : t.fetch.inFlight = s.fetch.inFlight)
    (hhead : t.fetch.head = s.fetch.head) (hheld : t.held = s.held)
    (hwrite : ∀ w, t.writer.inFlight = some w → ∃ v, s.writer.inFlight = some v ∧ v.source = w.source)
    (hs : TrafficSound s) : TrafficSound t := by
  obtain ⟨fetch, pause, load, write⟩ := hs
  refine ⟨?_, ?_, ?_, fun w hw => ?_⟩
  · unfold FetchSound; rw [hfetch, hstate, hhead, hheld]; exact fetch
  · unfold PauseSound; rw [hfetch, hstate, hheld]; exact pause
  · unfold LoadSound; rw [hstate, horigin, hread, hblock]; exact load
  · obtain ⟨v, hv, hsource⟩ := hwrite w hw
    rw [hstate, horigin, hheld, ← hsource]
    exact write v hv

theorem Quiet.traffic {s t : State} (h : Quiet s t) (hs : TrafficSound s) : TrafficSound t := by
  refine traffic_congr h.state h.origin h.configRead h.heldBlock (by rw [h.fetch]) (by rw [h.fetch]) h.held
    (fun w hw => ?_) hs
  obtain ⟨v, hv, hvw⟩ := h.write hw
  exact ⟨v, hv, source_of_unnoted hvw⟩

/-- With no write in flight and none of the four accesses outstanding outside the controller's say. -/
theorem fetchSound_of_none {s : State} (h : s.fetch.inFlight = none) : FetchSound s := by
  intro i hi
  rw [h] at hi
  exact nomatch hi

theorem writeSound_of_none {s : State} (h : s.writer.inFlight = none) : WriteSound s := by
  intro w hw
  rw [h] at hw
  exact nomatch hw

/-- A state other than PAUSING, PAUSED and HALTED says nothing of fetch and response. -/
theorem pauseSound_of_other {s : State} (h : s.control.state = .running ∨ s.control.state = .loading
    ∨ s.control.state = .faulted) : PauseSound s := by
  rcases h with h | h | h <;> exact ⟨by rw [h]; exact nofun, by rw [h]; exact nofun, by rw [h]; exact nofun⟩

/-- A configuration read or a held block shows that the controller is LOADING. -/
theorem loading_of_read {s : State} (hs : LoadSound s) (h : s.control.configRead ≠ none) : s.control.state = .loading := by
  by_contra hstate
  exact h (hs.2 hstate).2.1

theorem loading_of_block {s : State} (hs : LoadSound s) {b : ConfigBlock} (h : s.control.heldBlock = some b) :
    s.control.state = .loading := by
  by_contra hstate
  rw [(hs.2 hstate).2.2] at h
  exact nomatch h

/-- Outside RUNNING and PAUSING no fetch is in flight. -/
theorem no_fetch {s : State} (hs : FetchSound s) (h : s.control.state ≠ .running) (h' : s.control.state ≠ .pausing) :
    s.fetch.inFlight = none := by
  cases hf : s.fetch.inFlight with
  | none => rfl
  | some i => exact absurd (hs i hf).1 (not_or.2 ⟨h, h'⟩)

/-- PAUSING settles: what is left of it has a fetch in flight or a response held (R125). -/
theorem settlePause_traffic {s : State} (hfetch : FetchSound s)
    (hpaused : s.control.state = .paused → s.held = none) (hhalted : s.control.state = .halted → s.held = none)
    (hload : LoadSound s) (hwrite : WriteSound s) : TrafficSound s.settlePause := by
  rcases State.settlePause_cases s with ⟨hstate, hnone, hheld, h⟩ | ⟨hnot, h⟩ <;> rw [h]
  · refine ⟨fetchSound_of_none hnone, ⟨nofun, fun _ => hheld, nofun⟩, ⟨nofun, fun _ => hload.2 ?_⟩, fun w hw => ?_⟩
    · rw [hstate]; nofun
    · exact ⟨nofun, nofun, (hwrite w hw).2.2⟩
  · refine ⟨hfetch, ⟨fun hstate => ?_, hpaused, hhalted⟩, hload, hwrite⟩
    by_cases hf : s.fetch.inFlight = none
    · exact .inr fun hh => hnot ⟨hstate, hf, hh⟩
    · exact .inl hf

/-! ## The moves -/

/-- FAULTED discards the fetch and leaves the origin; a configuration read has ended before. -/
theorem enterFaulted_traffic (cause : FaultCause) {s : State} (hread : s.control.configRead = none)
    (hblock : s.control.heldBlock = none)
    (hwrite : ∀ w, s.writer.inFlight = some w → w.source = .response → s.held ≠ none) :
    TrafficSound (s.enterFaulted cause) := by
  refine (enterFaulted_quiet cause s).traffic ⟨fetchSound_of_none (discard_inFlight _), ?_, ?_, fun w hw => ?_⟩
  · exact pauseSound_of_other (.inr (.inr rfl))
  · exact ⟨nofun, fun _ => ⟨rfl, hread, hblock⟩⟩
  · exact ⟨nofun, nofun, hwrite w hw⟩

theorem load_traffic {origin : LoadOrigin} {s : State} (hs : TrafficSound s)
    (h : s.control.state = .halted ∧ origin = .halted ∨ s.control.state = .faulted ∧ origin = .faulted) :
    TrafficSound (beginLoad origin s) := by
  obtain ⟨fetch, -, -, write⟩ := hs
  have hfetch : s.fetch.inFlight = none := by
    rcases h with ⟨h, -⟩ | ⟨h, -⟩ <;> exact no_fetch fetch (by rw [h]; nofun) (by rw [h]; nofun)
  refine ⟨fetchSound_of_none hfetch, pauseSound_of_other (.inr (.inl rfl)),
    ⟨fun _ => ⟨nofun, .inl ⟨nofun, rfl⟩⟩, fun h => absurd rfl h⟩, fun w hw => ?_⟩
  obtain ⟨hhalted, -, hheld⟩ := write w hw
  rcases h with ⟨h, -⟩ | ⟨-, rfl⟩
  · exact absurd h hhalted
  · exact ⟨nofun, fun _ => rfl, hheld⟩

theorem pause_traffic {s : State} (hs : TrafficSound s) (h : s.control.state = .running) :
    TrafficSound (s.withState .pausing).settlePause := by
  obtain ⟨fetch, -, load, write⟩ := hs
  refine settlePause_traffic (fun i hi => ⟨.inr rfl, (fetch i hi).2⟩) nofun nofun
    ⟨nofun, fun _ => load.2 (by rw [h]; nofun)⟩ fun w hw => ⟨nofun, nofun, (write w hw).2.2⟩

theorem resume_traffic {s : State} (hs : TrafficSound s) (h : s.control.state = .pausing ∨ s.control.state = .paused) :
    TrafficSound (s.withState .running) := by
  obtain ⟨fetch, -, load, write⟩ := hs
  refine ⟨fun i hi => ⟨.inl rfl, (fetch i hi).2⟩, pauseSound_of_other (.inl rfl), ⟨nofun, fun _ => load.2 ?_⟩,
    fun w hw => ⟨nofun, nofun, (write w hw).2.2⟩⟩
  rcases h with h | h <;> rw [h] <;> nofun

theorem readFails_traffic (cause : FaultCause) {s : State} (hs : TrafficSound s) (h : s.control.configRead ≠ none) :
    TrafficSound ((endRead s).enterFaulted cause) := by
  obtain ⟨-, -, load, write⟩ := hs
  obtain ⟨-, ⟨-, hblock⟩ | ⟨hread, -⟩⟩ := load.1 (loading_of_read load h)
  · exact enterFaulted_traffic cause rfl hblock fun w hw => (write w hw).2.2
  · exact absurd hread h

theorem readHolds_traffic {b : ConfigBlock} (hb : b.valid = true) {s : State} (hs : TrafficSound s)
    (h : s.control.configRead ≠ none) :
    TrafficSound ((endRead s).withControl { (endRead s).control with heldBlock := some b }) := by
  obtain ⟨fetch, -, load, write⟩ := hs
  have hstate := loading_of_read load h
  obtain ⟨horigin, -⟩ := load.1 hstate
  exact ⟨fetch, pauseSound_of_other (.inr (.inl hstate)),
    ⟨fun _ => ⟨horigin, .inr ⟨rfl, b, rfl, hb⟩⟩, fun h => absurd hstate h⟩, write⟩

theorem applyBlock_control (b : ConfigBlock) (s : State) : (applyBlock b s).control = s.control.load b := by
  rw [applyBlock, State.withControl_control]

theorem applyBlock_fetch (b : ConfigBlock) (s : State) : (applyBlock b s).fetch = s.fetch.load b := by
  simp [applyBlock]

theorem applyBlock_writer (b : ConfigBlock) (s : State) : (applyBlock b s).writer = s.writer.load b := by
  simp [applyBlock]

theorem applyBlock_time (b : ConfigBlock) (s : State) : (applyBlock b s).time = s.time.load b := by
  simp [applyBlock]

theorem applyBlock_held (b : ConfigBlock) (s : State) : (applyBlock b s).held = s.held := by
  simp [applyBlock, applyMasks]

theorem apply_traffic {b : ConfigBlock} {s : State} (hs : TrafficSound s) (h : s.control.heldBlock = some b)
    (hw : s.writer.inFlight = none) : TrafficSound (applyBlock b s) := by
  obtain ⟨fetch, -, load, -⟩ := hs
  have hstate := loading_of_block load h
  have hread : s.control.configRead = none := by
    obtain ⟨-, ⟨-, hblock⟩ | ⟨hread, -⟩⟩ := load.1 hstate
    · rw [hblock] at h; exact nomatch h
    · exact hread
  refine ⟨fetchSound_of_none ?_, pauseSound_of_other (.inl ?_), ⟨fun h => ?_, fun _ => ?_⟩, writeSound_of_none ?_⟩
  · rw [applyBlock_fetch]; exact no_fetch fetch (by rw [hstate]; nofun) (by rw [hstate]; nofun)
  · rw [applyBlock_control]; rfl
  · rw [applyBlock_control] at h; exact nomatch h
  · rw [applyBlock_control]; exact ⟨rfl, hread, rfl⟩
  · rw [applyBlock_writer]; exact hw

theorem fetch_traffic {s : State} (hs : TrafficSound s) (h : s.mayFetch = true) :
    TrafficSound (s.withFetch { s.fetch with inFlight := some s.fetch.head }) := by
  obtain ⟨-, -, load, write⟩ := hs
  obtain ⟨hstate, -, hheld, -⟩ := of_decide_eq_true h
  refine ⟨fun i hi => ?_, pauseSound_of_other (.inl hstate), load, write⟩
  exact ⟨.inl hstate, (Option.some.inj hi).symm, hheld⟩

theorem withdrawn_traffic {s : State} (hs : TrafficSound s) :
    TrafficSound (s.withFetch { s.fetch with inFlight := none }).settlePause := by
  obtain ⟨-, ⟨-, hpaused, hhalted⟩, load, write⟩ := hs
  exact settlePause_traffic (fetchSound_of_none rfl) hpaused hhalted load write

/-- A record is taken in RUNNING or PAUSING, and leaves a response held (R136, R145). -/
theorem respond_traffic {s u : State} (hs : TrafficSound s) (harrives : Arrives s) (h : Quiet (taken s) u)
    (kind : ResponseKind) (r : Request) (a : Answer) : TrafficSound (u.holdResponse kind r a) := by
  obtain ⟨fetch, -, load, write⟩ := hs
  obtain ⟨i, hi⟩ := Option.isSome_iff_exists.1 harrives.1
  have hstate : u.control.state = .running ∨ u.control.state = .pausing := h.state ▸ (fetch i hi).1
  refine ⟨fetchSound_of_none (by rw [State.holdResponse_frame]; exact congrArg _ h.fetch), ⟨fun _ => .inr nofun, ?_, ?_⟩,
    ?_, fun w hw => ?_⟩
  · intro hp; rcases hstate with e | e <;> exact nomatch e.symm.trans hp
  · intro hp; rcases hstate with e | e <;> exact nomatch e.symm.trans hp
  · unfold LoadSound
    rw [State.holdResponse_frame, h.state, h.origin, h.configRead, h.heldBlock]
    exact load
  · refine ⟨?_, ?_, fun _ => nofun⟩
    · intro hp; rcases hstate with e | e <;> exact nomatch e.symm.trans hp
    · intro hp; rcases hstate with e | e <;> exact nomatch e.symm.trans hp

theorem ne_of_writes {c : ControllerState} (h : c.writes = true) : c ≠ .halted ∧ c ≠ .loading ∧ c ≠ .faulted := by
  cases c <;> simp [ControllerState.writes] at h ⊢

/-- A response chosen for a write is held, and is no FENCE response that waits (R153, R161). -/
theorem choose_response {s : State} {r : HeldResponse} (h : s.choose = .response r) :
    s.held = some r ∧ (r.kind = .fence → s.writer.fenceMark = some 0) := by
  have eligible : s.eligibleResponse = some r := by
    unfold State.choose at h
    split at h
    · exact nomatch h
    · rename_i r' he _; rw [he, Choice.response.inj h]
    · exact nomatch h
    · rename_i r' _ he _
      split at h
      · exact nomatch h
      · rw [he, Choice.response.inj h]
  unfold State.eligibleResponse at eligible
  split at eligible
  · exact nomatch eligible
  · rename_i r' hr
    split at eligible
    · exact nomatch eligible
    · rename_i hmark
      obtain rfl := Option.some.inj eligible
      exact ⟨hr, fun hk => not_not.1 fun hm => hmark ⟨hk, hm⟩⟩

/-- A write issued in a state that writes (R153). -/
theorem issue_traffic {s : State} (hs : TrafficSound s) (hstate : s.control.state.writes = true) {w : CompletionWrite}
    (hw : w.source = .response → s.held ≠ none) :
    TrafficSound (s.withWriter { s.writer with inFlight := some w }) := by
  obtain ⟨fetch, pause, load, -⟩ := hs
  obtain ⟨hhalted, hloading, -⟩ := ne_of_writes hstate
  refine ⟨fetch, pause, load, fun v hv => ?_⟩
  obtain rfl := Option.some.inj hv
  exact ⟨hhalted, fun h => absurd h hloading, hw⟩

/-- A write that is over, whatever else the completion writer keeps. -/
theorem ended_traffic {s : State} (hs : TrafficSound s) {x : CompletionWriter} (hx : x.inFlight = none) :
    TrafficSound (s.withWriter x) := by
  obtain ⟨fetch, pause, load, -⟩ := hs
  exact ⟨fetch, pause, load, writeSound_of_none hx⟩

theorem responseAck_traffic (w : CompletionWrite) {s : State} (hs : TrafficSound s) :
    TrafficSound (acknowledgeResponse w s) := by
  obtain ⟨fetch, -, load, -⟩ := hs
  refine (countRecord_quiet _).traffic (settlePause_traffic ?_ (fun _ => rfl) (fun _ => rfl) load (writeSound_of_none rfl))
  exact fun i hi => ⟨(fetch i hi).1, (fetch i hi).2.1, rfl⟩

theorem writeFails_traffic (w : CompletionWrite) {s : State} (hs : TrafficSound s)
    (hstate : s.control.state.writes = true) : TrafficSound ((returnRecord w s).enterFaulted .completionWrite) := by
  obtain ⟨-, -, load, -⟩ := hs
  obtain ⟨-, hread, hblock⟩ := load.2 (ne_of_writes hstate).2.1
  have quiet := returnRecord_quiet w s
  refine enterFaulted_traffic _ (quiet.configRead.trans hread) (quiet.heldBlock.trans hblock) fun v hv => ?_
  obtain ⟨x, hx, -⟩ := quiet.write hv
  exact nomatch hx

theorem fetchFails_traffic {i : Nat} {s : State} (hs : TrafficSound s) (h : s.fetch.inFlight = some i) :
    TrafficSound ((s.withFetch { s.fetch with inFlight := none }).enterFaulted .fetchRead) := by
  obtain ⟨fetch, -, load, write⟩ := hs
  have hloading : s.control.state ≠ .loading := by
    rcases (fetch i h).1 with h | h <;> rw [h] <;> nofun
  obtain ⟨-, hread, hblock⟩ := load.2 hloading
  exact enterFaulted_traffic _ hread hblock fun w hw => (write w hw).2.2

theorem reset_traffic (s : State) : TrafficSound (controllerReset s) :=
  ⟨fetchSound_of_none (discard_inFlight s.fetch), ⟨nofun, nofun, fun _ => rfl⟩, ⟨nofun, fun _ => ⟨rfl, rfl, rfl⟩⟩,
    writeSound_of_none rfl⟩

theorem trafficSound_of_powerOn {s : State} (hc : s.control = .reset) (hf : s.fetch = .reset) (hh : s.held = none)
    (hw : s.writer = .reset) : TrafficSound s := by
  refine ⟨fetchSound_of_none (by rw [hf]; rfl), ?_, ?_, writeSound_of_none (by rw [hw]; rfl)⟩
  · unfold PauseSound; rw [hc, hh]; exact ⟨nofun, nofun, fun _ => rfl⟩
  · unfold LoadSound; rw [hc]; exact ⟨nofun, fun _ => ⟨rfl, rfl, rfl⟩⟩

theorem Move.traffic {c : Instr} {s t : State} (h : Move c s t) (hs : TrafficSound s) : TrafficSound t := by
  have acts {u : State} (h : Acts s u) : TrafficSound u := h.still.toQuiet.traffic hs
  have same {u : State} (hc : u.control = s.control) (hf : u.fetch.inFlight = s.fetch.inFlight)
      (hh : u.fetch.head = s.fetch.head) (hheld : u.held = s.held) (hw : u.writer.inFlight = s.writer.inFlight) :
      TrafficSound u :=
    traffic_congr (by rw [hc]) (by rw [hc]) (by rw [hc]) (by rw [hc]) hf hh hheld (fun w h => ⟨w, hw ▸ h, rfl⟩) hs
  cases h with
  | stay => exact hs
  | expiry n => exact acts (takeExpiry_acts n s)
  | edge n share => exact acts (takeEdge_acts n share s)
  | pulseEnd n => exact acts (Act.pulseEnd n).single
  | moderation => exact acts (moderationExpiry_acts s)
  | tick pins => exact (beginTick_quiet pins _).traffic (acts (finishTick_acts s))
  | powerOn => exact trafficSound_of_powerOn rfl rfl rfl rfl
  | reset => exact reset_traffic s
  | window x hx =>
    exact traffic_congr hx.state hx.origin hx.configRead hx.heldBlock rfl rfl rfl (fun w h => ⟨w, h, rfl⟩) hs
  | submitTail => exact same rfl rfl rfl rfl rfl
  | completeHead => exact same rfl rfl rfl rfl rfl
  | dropFetch => exact same rfl rfl rfl rfl rfl
  | dropWrite => exact same rfl rfl rfl rfl rfl
  | load origin h => exact load_traffic hs h
  | pause h => exact pause_traffic hs h
  | resume h => exact resume_traffic hs h
  | readFails cause h => exact readFails_traffic cause hs h
  | readHolds b h hb => exact readHolds_traffic hb hs h
  | apply b h hw => exact apply_traffic hs h hw
  | fetch h => exact fetch_traffic hs h
  | withdrawn => exact withdrawn_traffic hs
  | refused r status h => exact respond_traffic hs h (.refl _) _ r _
  | request k r _ h => exact respond_traffic hs h (owner_quiet k r _) _ r _
  | fetchFails i h => exact fetchFails_traffic hs h
  | writeResponse r hstate _ _ h =>
    exact issue_traffic hs hstate fun _ hnone => by rw [(choose_response h).1] at hnone; exact nomatch hnone
  | writeReport src hstate =>
    refine (issueReport_quiet src s).traffic ?_
    rw [issueReport_inFlight]
    exact issue_traffic hs hstate nofun
  | reportAck w src => exact (acknowledgeReport_quiet src w s).traffic (ended_traffic hs rfl)
  | responseAck w => exact responseAck_traffic w hs
  | writeFails w _ hstate => exact writeFails_traffic w hs hstate
  | writeReturns w => exact (returnRecord_quiet w s).traffic (ended_traffic hs rfl)

/-- Settles O53: a move that changes the controller state sets or ends the accesses that the new state speaks of, and the
work of the timers changes neither. -/
theorem trafficFollowsTheControllerState : Obligations.TrafficFollowsTheControllerState :=
  keptByEveryStep (fun _ _ h => h) (fun _ h => h) fun _ _ _ => Move.traffic

end Sys2Proof.Proofs
end

section
/-! # Device time and its counting state

Ticks, time steps, loads and resets are the only moves that change device time; each keeps it in agreement with its counting
state (R3 to R6, R15). -/

namespace Sys2Proof.Proofs
open Sys2Proof.Machine Sys2Proof.Claims

/-- Device time agrees with its counting state (R4, R5). -/
def ClockSound (x : TimeBase) : Prop :=
  (x.counting = .stopped → x.now = 0) ∧ (x.counting = .counting → x.now ≠ endOfTime)
    ∧ (x.counting = .ended → x.now = endOfTime)

theorem countingSound_iff (s : State) : CountingSound s ↔ ClockSound s.time
    ∧ (s.control.state.writes = true → s.time.counting ≠ .stopped)
    ∧ ∀ i, s.fetch.inFlight = some i → s.control.state.writes = true := by
  simp only [CountingSound, ClockSound, and_assoc]

/-! ## What changes device time -/

/-- The elementary changes of a request change device time by a step alone. -/
theorem RequestAct.time {k : RequestKind} {s t : State} (h : RequestAct k s t) :
    t.time = s.time ∨ ∃ d, t.time = s.time.step d := by
  cases h with
  | act h => exact .inl h.still.time
  | cancel n => exact .inl (by unfold cancelSlot; dsimp only; split <;> rfl)
  | groups => exact .inl (by rw [setGroups, State.withGroups_time])
  | move d => exact .inr ⟨d, by simp [moveTime, takePulseEnds]⟩
  | _ => exact .inl rfl

/-- What every step by an offset keeps of the time base, a request keeps. -/
theorem owner_time {P : TimeBase → Prop} (hstep : ∀ x d, P x → P (x.step d)) (k : RequestKind) (r : Request) {s : State}
    (hs : P s.time) : P (owner k r s).1.time := by
  refine acts_keep (Inv := fun s => P s.time) (fun s t h hs => ?_) (owner_acts k r s) hs
  rcases h.time with h | ⟨d, h⟩ <;> rw [h]
  · exact hs
  · exact hstep _ d hs

theorem beginTick_time (pins : BitVec 8) (s : State) : (beginTick pins s).time = s.time.tick := by
  simp [beginTick, tickDelay, sampleInputs]

theorem tick_counting (x : TimeBase) : x.tick.counting = x.advance.counting := rfl

theorem tick_now (x : TimeBase) : x.tick.now = x.advance.now := rfl

/-! ## Agreement -/

theorem ClockSound.tick {x : TimeBase} (h : ClockSound x) : ClockSound x.tick := by
  unfold ClockSound
  rw [tick_counting, tick_now]
  unfold TimeBase.advance
  cases hc : x.counting with
  | stopped => exact h
  | ended => exact h
  | counting =>
    dsimp only
    split
    · rename_i hend; exact ⟨nofun, nofun, fun _ => hend⟩
    · split
      · rename_i hend; exact ⟨nofun, nofun, fun _ => hend⟩
      · rename_i hend; exact ⟨nofun, fun _ => hend, nofun⟩

theorem tick_stopped {x : TimeBase} (h : x.tick.counting = .stopped) : x.counting = .stopped := by
  rw [tick_counting] at h
  unfold TimeBase.advance at h
  cases hc : x.counting with
  | stopped => rfl
  | ended => rw [hc] at h; exact hc.symm.trans h
  | counting =>
    rw [hc] at h
    dsimp only at h
    split at h
    · exact nomatch h
    · split at h
      · exact nomatch h
      · exact nomatch h

/-- A step taken while device time is not STOPPED leaves it in agreement and not STOPPED (R15). -/
theorem ClockSound.step {x : TimeBase} (h : ClockSound x ∧ x.counting ≠ .stopped) (d : Int) :
    ClockSound (x.step d) ∧ (x.step d).counting ≠ .stopped := by
  obtain ⟨-, hstopped⟩ := h
  by_cases hend : stepped x.now d = endOfTime
  · have hcounting : (x.step d).counting = .ended := if_pos hend
    exact ⟨⟨by rw [hcounting]; nofun, by rw [hcounting]; nofun, fun _ => hend⟩, by rw [hcounting]; nofun⟩
  · have hcounting : (x.step d).counting = .counting := by
      have heq : (x.step d).counting = if x.counting = .ended then .counting else x.counting := if_neg hend
      rw [heq]
      cases hc : x.counting with
      | stopped => exact absurd hc hstopped
      | counting => rfl
      | ended => rfl
    exact ⟨⟨by rw [hcounting]; nofun, fun _ => hend, by rw [hcounting]; nofun⟩, by rw [hcounting]; nofun⟩

theorem load_counting (b : ConfigBlock) (x : TimeBase) : (x.load b).counting ≠ .stopped := by
  by_cases h : x.counting = .stopped
  · have : (x.load b).counting = .counting := if_pos h
    rw [this]; nofun
  · have : (x.load b).counting = x.counting := if_neg h
    rwa [this]

theorem ClockSound.load {x : TimeBase} (h : ClockSound x) (b : ConfigBlock) : ClockSound (x.load b) := by
  by_cases hc : x.counting = .stopped
  · have hcounting : (x.load b).counting = .counting := if_pos hc
    have hnow : (x.load b).now = 0 := h.1 hc
    refine ⟨by rw [hcounting]; nofun, fun _ => ?_, by rw [hcounting]; nofun⟩
    rw [hnow]; decide
  · have hcounting : (x.load b).counting = x.counting := if_neg hc
    unfold ClockSound
    rw [hcounting]
    exact h

/-! ## The moves -/

/-- A state whose time base and controller are in order, with or without a fetch. -/
theorem countingSound_of_writes {s : State} (ht : ClockSound s.time) (hstate : s.control.state.writes = true)
    (hcounting : s.time.counting ≠ .stopped) : CountingSound s :=
  (countingSound_iff s).2 ⟨ht, fun _ => hcounting, fun _ _ => hstate⟩

theorem countingSound_of_idle {s : State} (ht : ClockSound s.time) (hstate : s.control.state.writes = false)
    (hfetch : s.fetch.inFlight = none) : CountingSound s :=
  (countingSound_iff s).2 ⟨ht, fun h => absurd (hstate.symm.trans h) nofun, fun _ h => absurd (hfetch.symm.trans h) nofun⟩

/-- The counting invariant speaks of the time base, the controller state and the presence of a fetch. -/
theorem counting_congr {s t : State} (ht : t.time = s.time) (hstate : t.control.state = s.control.state)
    (hfetch : t.fetch.inFlight = none ∨ t.fetch.inFlight = s.fetch.inFlight) (hs : CountingSound s) : CountingSound t := by
  rw [countingSound_iff] at hs ⊢
  obtain ⟨clock, writes, fetch⟩ := hs
  rw [ht, hstate]
  refine ⟨clock, writes, fun i hi => ?_⟩
  rcases hfetch with h | h
  · exact absurd (h.symm.trans hi) nofun
  · exact fetch i (h.symm.trans hi)

theorem settlePause_writes {s : State} : s.settlePause.control.state.writes = s.control.state.writes := by
  rcases State.settlePause_cases s with ⟨hstate, -, -, h⟩ | ⟨-, h⟩ <;> rw [h]
  rw [hstate]; rfl

theorem settlePause_time (s : State) : s.settlePause.time = s.time := (settlePause_timers s).time

theorem settlePause_fetch (s : State) : s.settlePause.fetch = s.fetch := by
  rcases State.settlePause_cases s with ⟨-, -, -, h⟩ | ⟨-, h⟩ <;> rw [h]
  rfl

theorem settlePause_counting {s : State} (hs : CountingSound s) : CountingSound s.settlePause := by
  rw [countingSound_iff] at hs ⊢
  rwa [settlePause_time, settlePause_writes, settlePause_fetch]

theorem enterFaulted_counting (cause : FaultCause) {s : State} (hs : ClockSound s.time) :
    CountingSound (s.enterFaulted cause) := by
  have quiet := enterFaulted_quiet cause s
  refine countingSound_of_idle ?_ (by rw [quiet.state]; rfl) (by rw [quiet.fetch]; exact discard_inFlight _)
  obtain ⟨u, h, hu | hu⟩ := enterFaulted_cases cause s <;> rw [hu]
  · rwa [h.time]
  · rwa [State.raise_time, h.time]

/-- A record is taken only while device time is not STOPPED, and a time step leaves it so (R138). -/
theorem respond_counting {s u : State} (hs : CountingSound s) (harrives : Arrives s) (h : Quiet (taken s) u)
    (ht : ClockSound s.time ∧ s.time.counting ≠ .stopped → ClockSound u.time ∧ u.time.counting ≠ .stopped)
    (kind : ResponseKind) (r : Request) (a : Answer) : CountingSound (u.holdResponse kind r a) := by
  obtain ⟨clock, writes, fetch⟩ := (countingSound_iff s).1 hs
  obtain ⟨i, hi⟩ := Option.isSome_iff_exists.1 harrives.1
  have hstate : s.control.state.writes = true := fetch i hi
  obtain ⟨hclock, hcounting⟩ := ht ⟨clock, writes hstate⟩
  exact countingSound_of_writes hclock ((congrArg _ h.state).trans hstate) hcounting

theorem Move.counting {c : Instr} {s t : State} (h : Move c s t) (hs : CountingSound s) : CountingSound t := by
  obtain ⟨clock, writes, fetch⟩ := (countingSound_iff s).1 hs
  have acts {u : State} (h : Acts s u) : CountingSound u :=
    counting_congr h.still.time h.still.toQuiet.state (.inr (congrArg _ h.still.fetch)) hs
  have quiet {u v : State} (h : Quiet u v) (ht : v.time = u.time) (hu : CountingSound u) : CountingSound v :=
    counting_congr ht h.state (.inr (congrArg _ h.fetch)) hu
  have same {u : State} (ht : u.time = s.time) (hc : u.control.state = s.control.state)
      (hf : u.fetch.inFlight = s.fetch.inFlight) : CountingSound u := counting_congr ht hc (.inr hf) hs
  cases h with
  | stay => exact hs
  | expiry n => exact acts (takeExpiry_acts n s)
  | edge n share => exact acts (takeEdge_acts n share s)
  | pulseEnd n => exact acts (Act.pulseEnd n).single
  | moderation => exact acts (moderationExpiry_acts s)
  | tick pins =>
    have finished := (countingSound_iff _).1 (acts (finishTick_acts s))
    have ticked := beginTick_quiet pins (finishTick s)
    refine (countingSound_iff _).2 ⟨?_, fun hw hstopped => ?_, fun i hi => ?_⟩
    · rw [beginTick_time]; exact finished.1.tick
    · rw [ticked.state] at hw
      rw [beginTick_time] at hstopped
      exact finished.2.1 hw (tick_stopped hstopped)
    · rw [ticked.state]
      rw [ticked.fetch] at hi
      exact finished.2.2 i hi
  | powerOn => exact countingSound_of_idle ⟨fun _ => rfl, nofun, nofun⟩ rfl rfl
  | reset => exact countingSound_of_idle ⟨fun _ => rfl, nofun, nofun⟩ rfl (discard_inFlight s.fetch)
  | window x hx => exact same rfl hx.state rfl
  | load origin h =>
    have hidle : s.control.state.writes = false := by rcases h with ⟨h, -⟩ | ⟨h, -⟩ <;> rw [h] <;> rfl
    refine countingSound_of_idle clock rfl ?_
    by_contra hf
    obtain ⟨i, hi⟩ := Option.ne_none_iff_exists'.1 hf
    exact absurd (hidle.symm.trans (fetch i hi)) nofun
  | pause h => exact settlePause_counting (countingSound_of_writes clock rfl (writes (by rw [h]; rfl)))
  | resume h =>
    exact countingSound_of_writes clock rfl (writes (by rcases h with h | h <;> rw [h] <;> rfl))
  | readFails cause => exact enterFaulted_counting cause clock
  | apply b _ _ =>
    refine countingSound_of_writes ?_ ?_ ?_
    · rw [applyBlock_time]; exact clock.load b
    · rw [applyBlock_control]; rfl
    · rw [applyBlock_time]; exact load_counting b _
  | fetch h =>
    have hstate : s.control.state.writes = true := by rw [(of_decide_eq_true h).1]; rfl
    exact countingSound_of_writes clock hstate (writes hstate)
  | withdrawn => exact settlePause_counting (counting_congr (s := s) (t := s.withFetch _) rfl rfl (.inl rfl) hs)
  | refused r status h => exact respond_counting hs h (.refl _) (fun h => h) _ r _
  | request k r _ h =>
    exact respond_counting hs h (owner_quiet k r _) (owner_time (P := fun x => ClockSound x ∧ x.counting ≠ .stopped)
      (fun _ d h => ClockSound.step h d) k r (s := taken s)) _ r _
  | fetchFails => exact enterFaulted_counting _ clock
  | writeReport src =>
    exact quiet (issueReport_quiet src s) (issueReport_timers src s).time (same rfl rfl rfl)
  | reportAck w src =>
    exact quiet (acknowledgeReport_quiet src w s) (acknowledgeReport_timers src w s).time (same rfl rfl rfl)
  | responseAck w =>
    exact quiet (countRecord_quiet _) (countRecord_timers _).time (settlePause_counting (same rfl rfl rfl))
  | writeFails w => exact enterFaulted_counting _ (by rwa [(returnRecord_timers w s).time])
  | writeReturns w =>
    exact quiet (returnRecord_quiet w s) (returnRecord_timers w s).time (same rfl rfl rfl)
  | _ => exact same rfl rfl rfl

theorem idle_counting {s : State} (hs : CountingSound s) : CountingSound (refclkPeriod s) := hs

/-- Settles O55: ticks, time steps, loads and resets change device time with its counting state, and a fetch is in
flight only in a state that writes. -/
theorem countingIsKept : Obligations.CountingIsKept :=
  keptByEveryStep (fun _ _ h => h) (fun _ => idle_counting) fun _ _ _ => Move.counting

end Sys2Proof.Proofs
end

section
/-! # Ranges of counters, indices and the write in flight

Each block's ranges by themselves, and which moves change the block (R1, R2, R132, R147, R149, R154, R164). -/

namespace Sys2Proof.Proofs
open Sys2Proof.Machine Sys2Proof.Claims

/-! ## The ranges, block by block -/

/-- Size and indices of the submission ring (R132). -/
def FetchInRange (f : FetchUnit) : Prop :=
  16 ≤ f.entries ∧ f.entries ≤ 4096 ∧ f.head < f.entries ∧ f.tail < f.entries

/-- Divider, tick length and phase (R1, R2). -/
def TickInRange (x : TimeBase) : Prop :=
  1 ≤ x.divider ∧ x.divider ≤ 65536 ∧ 1 ≤ x.tickLength ∧ x.tickLength ≤ 65536 ∧ x.phase < x.tickLength

/-- The write in flight is one of the next record, on a released entry (R147, R149). -/
def NextRecord (w : CompletionWriter) (x : CompletionWrite) : Prop :=
  x.index = w.writeIndex ∧ x.sequence = w.nextSequence ∧ x.address = w.address ∧ w.full = false

/-- Size and indices of the completion ring, the fairness count and the write in flight (R147, R149, R154). -/
structure RingInRange (w : CompletionWriter) : Prop where
  entries : 16 ≤ w.entries ∧ w.entries ≤ 4096
  writeIndex : w.writeIndex < w.entries
  completeHead : w.completeHead < w.entries
  fairness : w.fairness ≤ 4
  next : ∀ x, w.inFlight = some x → NextRecord w x

/-- Moderation count and delay timer (R164). -/
def ModerationInRange (w : CompletionWriter) : Prop :=
  w.moderationCount < w.threshold.toNat
    ∧ ∀ k, w.delayTimer = some k → k ≤ w.delay.toNat ∧ 1 ≤ w.moderationCount

/-- A held block is a valid one (R121). -/
def BlockValid (c : ControlBlock) : Prop := ∀ b, c.heldBlock = some b → b.valid = true

/-- All counters and indices. -/
structure CountersInRange (s : State) : Prop where
  fetch : FetchInRange s.fetch
  tick : TickInRange s.time
  ring : RingInRange s.writer
  moderation : ModerationInRange s.writer
  block : BlockValid s.control

theorem countersInRange_iff (s : State) :
    CountersInRange s ↔ RangesSound s ∧ RingSound s ∧ ModerationSound s := by
  constructor
  · rintro ⟨⟨f1, f2, f3, f4⟩, ⟨t1, t2, t3⟩, ⟨r1, r2, r3, r4, r5⟩, m, b⟩
    exact ⟨⟨⟨f1, f2⟩, ⟨f3, f4⟩, r1, ⟨r2, r3⟩, r4, ⟨t1, t2⟩, t3, b⟩, r5, b, m⟩
  · rintro ⟨⟨⟨f1, f2⟩, ⟨f3, f4⟩, r1, ⟨r2, r3⟩, r4, ⟨t1, t2⟩, t3, b⟩, r5, -, m⟩
    exact ⟨⟨f1, f2, f3, f4⟩, ⟨t1, t2, t3⟩, ⟨r1, r2, r3, r4, r5⟩, m, b⟩

/-! ## What keeps them -/

/-- A write without its notes is of the same record. -/
theorem nextRecord_of_unnoted {w : CompletionWriter} {x y : CompletionWrite} (h : unnoted x = unnoted y)
    (hx : NextRecord w x) : NextRecord w y := by
  obtain ⟨hindex, hsequence, haddress, hfull⟩ := hx
  exact ⟨(congrArg CompletionWrite.index h).symm.trans hindex, (congrArg CompletionWrite.sequence h).symm.trans hsequence,
    (congrArg CompletionWrite.address h).symm.trans haddress, hfull⟩

theorem Quiet.ring {s t : State} (h : Quiet s t) (hs : RingInRange s.writer) : RingInRange t.writer := by
  have next : ∀ x, t.writer.inFlight = some x → NextRecord s.writer x := fun x hx => by
    obtain ⟨v, hv, hvx⟩ := h.write hx
    exact nextRecord_of_unnoted hvx (hs.next v hv)
  obtain ⟨entries, writeIndex, completeHead, fairness, -⟩ := hs
  rw [h.writer]
  exact ⟨entries, writeIndex, completeHead, fairness, next⟩

/-- Moderation goes on as it stands, or starts again after a signal (R164). -/
def Moderates (v w : CompletionWriter) : Prop :=
  w.threshold = v.threshold ∧ w.delay = v.delay
    ∧ (w.moderationCount = v.moderationCount ∧ w.delayTimer = v.delayTimer ∨ w.moderationCount = 0 ∧ w.delayTimer = none)

theorem Moderates.same {v w : CompletionWriter} (h : w = { v with
    queue := w.queue, inFlight := w.inFlight, controllerEntry := w.controllerEntry, fenceMark := w.fenceMark }) :
    Moderates v w := by
  rw [h]; exact ⟨rfl, rfl, .inl ⟨rfl, rfl⟩⟩

theorem Moderates.inRange {v w : CompletionWriter} (h : Moderates v w) (hv : ModerationInRange v) :
    ModerationInRange w := by
  obtain ⟨hthreshold, hdelay, ⟨hcount, htimer⟩ | ⟨hcount, htimer⟩⟩ := h
  · unfold ModerationInRange
    rw [hthreshold, hdelay, hcount, htimer]
    exact hv
  · refine ⟨by rw [hthreshold, hcount]; exact Nat.zero_lt_of_lt hv.1, fun k hk => ?_⟩
    rw [htimer] at hk
    exact nomatch hk

theorem Act.moderates {s t : State} (h : Act s t) : Moderates s.writer t.writer := by
  have raised (r : Raise) (s : State) : Moderates s.writer (s.raise r).writer := .same (by rw [State.raise_frame])
  cases h with
  | action x => rw [State.performAction_writer]; exact .same rfl
  | arming n a => rw [State.putArming_writer]; exact .same rfl
  | event src o makesPending => exact .same (by rw [State.recordEvent_frame])
  | raise r => exact raised r s
  | signal => exact ⟨rfl, rfl, .inr ⟨rfl, rfl⟩⟩
  | accept n => rcases beginEdge_cases n s with ⟨e, -, h⟩ | ⟨-, -, h⟩ | ⟨level, -, -, h⟩ <;> rw [h] <;> exact .same rfl
  | reevaluate n =>
    rcases reevaluate_cases n s with ⟨-, h⟩ | ⟨-, -, h⟩ | ⟨-, -, h⟩ <;> rw [h]
    · exact .same rfl
    · exact raised _ (s.putInput n _)
    · exact .same rfl
  | _ => exact .same rfl

theorem RequestAct.moderates {k : RequestKind} {s t : State} (h : RequestAct k s t) : Moderates s.writer t.writer := by
  cases h with
  | act h => exact h.moderates
  | cancel n => unfold cancelSlot; dsimp only; split <;> exact .same rfl
  | groups => rw [setGroups, State.withGroups_writer]; exact .same rfl
  | move d => exact .same (by simp [moveTime, takePulseEnds])
  | _ => exact .same rfl

theorem Acts.inRange {s t : State} (h : Acts s t) (hs : CountersInRange s) : CountersInRange t := by
  have still := h.still
  refine ⟨by rw [still.fetch]; exact hs.fetch, by rw [still.time]; exact hs.tick, still.toQuiet.ring hs.ring, ?_, ?_⟩
  · exact acts_keep (Inv := fun s => ModerationInRange s.writer) (fun _ _ h => h.moderates.inRange) h hs.moderation
  · unfold BlockValid; rw [still.toQuiet.heldBlock]; exact hs.block

theorem TickInRange.step {x : TimeBase} (d : Int) (h : TickInRange x) : TickInRange (x.step d) := h

theorem owner_inRange (k : RequestKind) (r : Request) {s : State} (hs : CountersInRange s) :
    CountersInRange (owner k r s).1 := by
  have quiet := owner_quiet k r s
  refine ⟨by rw [quiet.fetch]; exact hs.fetch, owner_time (fun x d h => h.step d) k r hs.tick, quiet.ring hs.ring, ?_, ?_⟩
  · exact acts_keep (Inv := fun s => ModerationInRange s.writer) (fun _ _ h => h.moderates.inRange) (owner_acts k r s)
      hs.moderation
  · unfold BlockValid; rw [quiet.heldBlock]; exact hs.block

/-! ## The moves -/

theorem tick_inRange {x : TimeBase} (h : TickInRange x) : TickInRange x.tick := by
  have hdivider : x.tick.divider = x.divider := by
    show x.advance.divider = _
    unfold TimeBase.advance
    split
    · rfl
    · rfl
    · split
      · rfl
      · split <;> rfl
  obtain ⟨low, high, -⟩ := h
  exact ⟨hdivider ▸ low, hdivider ▸ high, low, high, low⟩

theorem beginTick_writer (pins : BitVec 8) (s : State) :
    (beginTick pins s).writer = { s.writer with delayTimer := s.writer.delayTimer.map (· - 1) } := by
  simp [beginTick, tickDelay, sampleInputs]

theorem beginTick_inRange (pins : BitVec 8) {s : State} (hs : CountersInRange s) : CountersInRange (beginTick pins s) := by
  have quiet := beginTick_quiet pins s
  refine ⟨by rw [quiet.fetch]; exact hs.fetch, by rw [beginTick_time]; exact tick_inRange hs.tick, quiet.ring hs.ring,
    ?_, ?_⟩
  · obtain ⟨hcount, htimer⟩ := hs.moderation
    rw [beginTick_writer]
    refine ⟨hcount, fun k hk => ?_⟩
    obtain ⟨j, hj, rfl⟩ := Option.map_eq_some_iff.1 hk
    exact ⟨(Nat.sub_le j 1).trans (htimer j hj).1, (htimer j hj).2⟩
  · unfold BlockValid; rw [quiet.heldBlock]; exact hs.block

/-- Releasing written records never makes the ring full (R147, R148). -/
theorem not_full_of_accepts {w : CompletionWriter} (hw : RingInRange w) {v : Nat} (hv : w.accepts v = true)
    (hfull : w.full = false) : CompletionWriter.full { w with completeHead := v } = false := by
  obtain ⟨entries, hindex, hhead, -, -⟩ := hw
  have hsize : 0 < w.entries := by omega
  simp only [CompletionWriter.full, beq_eq_false_iff_ne, ne_eq] at hfull ⊢
  intro hnext
  obtain ⟨-, hdistance⟩ := (accepts_iff w v).1 hv
  have hwritten := ringDistance_lt hsize w.completeHead w.writeIndex
  have hreach : v = (w.completeHead + (ringDistance w.entries w.completeHead w.writeIndex + 1)) % w.entries := by
    rw [← hnext, ← Nat.add_assoc, ← Nat.mod_add_mod (w.completeHead + _), add_ringDistance_mod hhead hindex]
  rcases Nat.lt_or_ge (ringDistance w.entries w.completeHead w.writeIndex + 1) w.entries with hlt | hge
  · rw [hreach, ringDistance_add_mod hhead hlt] at hdistance
    omega
  · have hall : ringDistance w.entries w.completeHead w.writeIndex + 1 = w.entries := by omega
    rw [hall, Nat.add_mod_right, Nat.mod_eq_of_lt hhead] at hreach
    exact hfull (hnext.trans hreach)

theorem completeHead_ring {w : CompletionWriter} (hw : RingInRange w) {v : Nat} (hv : w.accepts v = true) :
    RingInRange { w with completeHead := v } where
  entries := hw.entries
  writeIndex := hw.writeIndex
  completeHead := ((accepts_iff w v).1 hv).1
  fairness := hw.fairness
  next x hx := by
    obtain ⟨hindex, hsequence, haddress, hfull⟩ := hw.next x hx
    exact ⟨hindex, hsequence, haddress, not_full_of_accepts hw hv hfull⟩

theorem issue_ring {s : State} (hs : RingInRange s.writer) (hfull : s.writer.full = false) (source : WriteSource)
    (record : CompletionRecord) :
    RingInRange { s.writer with inFlight := some (s.writeOf source record) } where
  entries := hs.entries
  writeIndex := hs.writeIndex
  completeHead := hs.completeHead
  fairness := hs.fairness
  next x hx := by
    obtain rfl := Option.some.inj hx
    exact ⟨rfl, rfl, rfl, hfull⟩

theorem acknowledge_ring {w : CompletionWriter} (hw : RingInRange w) {fairness : Nat} (h : fairness ≤ 4)
    (mark : Option Nat) :
    RingInRange (w.acknowledge fairness mark) where
  entries := hw.entries
  writeIndex := Nat.mod_lt _ (Nat.zero_lt_of_lt hw.writeIndex)
  completeHead := hw.completeHead
  fairness := h
  next _ hx := nomatch hx

theorem ended_ring {w : CompletionWriter} (hw : RingInRange w) : RingInRange { w with inFlight := none } where
  entries := hw.entries
  writeIndex := hw.writeIndex
  completeHead := hw.completeHead
  fairness := hw.fairness
  next _ hx := nomatch hx

theorem two_pow_inRange {n : Nat} (h : 4 ≤ n ∧ n ≤ 12) : 16 ≤ 2 ^ n ∧ 2 ^ n ≤ 4096 :=
  ⟨Nat.pow_le_pow_right (n := 2) (by omega) h.1, Nat.pow_le_pow_right (n := 2) (by omega) h.2⟩

/-- The ranges that the checks of a block give (R121). -/
theorem valid_ranges {b : ConfigBlock} (h : b.valid = true) :
    (4 ≤ b.submissionLog2.toNat ∧ b.submissionLog2.toNat ≤ 12) ∧ (4 ≤ b.completionLog2.toNat ∧ b.completionLog2.toNat ≤ 12)
      ∧ (1 ≤ b.divider.toNat ∧ b.divider.toNat ≤ 65536) ∧ b.threshold ≠ 0 := by
  simp only [ConfigBlock.valid, Bool.and_eq_true, decide_eq_true_iff, bne_iff_ne] at h
  obtain ⟨⟨⟨⟨⟨⟨⟨-, hsub⟩, hcompl⟩, hdiv⟩, -⟩, -⟩, hthr⟩, -⟩ := h
  exact ⟨hsub, hcompl, hdiv, hthr⟩

theorem applyBlock_inRange {b : ConfigBlock} {s : State} (hs : CountersInRange s) (h : s.control.heldBlock = some b)
    (hw : s.writer.inFlight = none) : CountersInRange (applyBlock b s) := by
  obtain ⟨hsub, hcompl, hdiv, hthr⟩ := valid_ranges (hs.block b h)
  have sub := two_pow_inRange hsub
  have compl := two_pow_inRange hcompl
  refine ⟨?_, ?_, ?_, ?_, ?_⟩
  · rw [applyBlock_fetch]
    exact ⟨sub.1, sub.2, Nat.zero_lt_of_lt sub.1, Nat.zero_lt_of_lt sub.1⟩
  · rw [applyBlock_time]
    obtain ⟨-, -, tick⟩ := hs.tick
    exact ⟨hdiv.1, hdiv.2, tick⟩
  · rw [applyBlock_writer]
    exact ⟨compl, Nat.zero_lt_of_lt compl.1, Nat.zero_lt_of_lt compl.1, Nat.zero_le 4,
      fun x hx => absurd (hw.symm.trans hx) nofun⟩
  · rw [applyBlock_writer]
    exact ⟨Nat.pos_of_ne_zero fun h0 => hthr (BitVec.eq_of_toNat_eq h0), nofun⟩
  · unfold BlockValid
    rw [applyBlock_control]
    nofun

theorem countRecord_moderation {s : State} (hs : ModerationInRange s.writer) :
    ModerationInRange (countRecord s).writer := by
  obtain ⟨hcount, htimer⟩ := hs
  unfold countRecord
  dsimp only
  split
  · exact ⟨Nat.zero_lt_of_lt hcount, nofun⟩
  · rename_i hbelow
    refine ⟨by simpa using hbelow, fun k hk => ⟨?_, by simp⟩⟩
    simp only [State.withWriter_writer] at hk ⊢
    split at hk
    · exact (Option.some.inj hk).symm.le
    · exact (htimer k hk).1

theorem putReport_moderates (src : Source) (r : Report) (s : State) : Moderates s.writer (s.putReport src r).writer := by
  cases src <;> exact .same rfl

theorem leaveQueue_moderates (src : Source) (rejoins : Bool) (s : State) :
    Moderates s.writer (leaveQueue src rejoins s).writer := by
  have left : Moderates s.writer ((s.withWriter { s.writer with queue := s.writer.queue.erase src }).putReport src
      ((s.report src).acknowledged rejoins)).writer := putReport_moderates src _ (s.withWriter _)
  cases rejoins
  · exact left
  · exact left

theorem returnRecord_moderates (w : CompletionWrite) (s : State) : Moderates s.writer (returnRecord w s).writer := by
  unfold returnRecord
  dsimp only
  split
  · exact .same rfl
  · exact putReport_moderates _ _ (s.withWriter _)

theorem settlePause_writer (s : State) : s.settlePause.writer = s.writer := by
  rcases State.settlePause_cases s with ⟨-, -, -, h⟩ | ⟨-, h⟩ <;> rw [h]
  rfl

theorem discard_inRange {f : FetchUnit} (h : FetchInRange f) : FetchInRange f.discard := by
  obtain ⟨-, hentries, hhead, htail⟩ := discard_ring f
  unfold FetchInRange
  rwa [hentries, hhead, htail]

theorem nextFairness_le (w : CompletionWrite) (n : Nat) : nextFairness w n ≤ 4 := by
  unfold nextFairness
  split
  · exact Nat.min_le_left 4 _
  · exact Nat.zero_le 4

theorem enterFaulted_inRange (cause : FaultCause) {s : State} (hs : CountersInRange s) :
    CountersInRange (s.enterFaulted cause) := by
  have faulted : CountersInRange (((s.withControl
      { s.control with state := .faulted, origin := none, faultCause := cause }).withFetch s.fetch.discard).setCause
      intFault) := ⟨discard_inRange hs.fetch, hs.tick, hs.ring, hs.moderation, hs.block⟩
  unfold State.enterFaulted
  dsimp only
  split
  · exact (Act.raise (.controllerFault cause) nofun).single.inRange faulted
  · exact faulted

theorem controllerReset_inRange {s : State} (hs : CountersInRange s) : CountersInRange (controllerReset s) := by
  obtain ⟨⟨flow, fhigh, -, -⟩, tick, ring, ⟨hcount, -⟩, -⟩ := hs
  obtain ⟨-, hentries, -, -⟩ := discard_ring s.fetch
  refine ⟨?_, tick, ⟨ring.entries, ?_, ?_, Nat.zero_le 4, fun _ hx => nomatch hx⟩,
    ⟨Nat.zero_lt_of_lt hcount, fun _ hk => nomatch hk⟩, fun _ hb => nomatch hb⟩
  · show FetchInRange { s.fetch.discard with head := 0, tail := 0 }
    unfold FetchInRange
    rw [hentries]
    exact ⟨flow, fhigh, Nat.zero_lt_of_lt flow, Nat.zero_lt_of_lt flow⟩
  · exact Nat.zero_lt_of_lt ring.writeIndex
  · exact Nat.zero_lt_of_lt ring.writeIndex

theorem countersInRange_of_powerOn {s : State} (hf : s.fetch = .reset) (ht : s.time = .reset) (hw : s.writer = .reset)
    (hc : s.control = .reset) : CountersInRange s := by
  refine ⟨?_, ?_, ?_, ?_, ?_⟩
  · rw [hf]; unfold FetchInRange; decide
  · rw [ht]; unfold TickInRange; decide
  · rw [hw]; exact ⟨by decide, by decide, by decide, by decide, fun _ hx => nomatch hx⟩
  · rw [hw]; exact ⟨by decide, fun _ hk => nomatch hk⟩
  · unfold BlockValid; rw [hc]; exact fun _ hb => nomatch hb

theorem CountersInRange.quiet {s t : State} (hs : CountersInRange s) (h : Quiet s t) (ht : t.time = s.time)
    (hm : ModerationInRange t.writer) : CountersInRange t :=
  ⟨by rw [h.fetch]; exact hs.fetch, by rw [ht]; exact hs.tick, h.ring hs.ring, hm,
    fun b hb => hs.block b (h.heldBlock ▸ hb)⟩

theorem settlePause_inRange {s : State} (hs : CountersInRange s) : CountersInRange s.settlePause := by
  rcases State.settlePause_cases s with ⟨-, -, -, h⟩ | ⟨-, h⟩ <;> rw [h]
  · exact ⟨hs.fetch, hs.tick, hs.ring, hs.moderation, hs.block⟩
  · exact hs

theorem taken_inRange {s : State} (hs : CountersInRange s) : CountersInRange (taken s) := by
  obtain ⟨⟨low, high, -, htail⟩, tick, ring, moderation, block⟩ := hs
  exact ⟨⟨low, high, Nat.mod_lt _ (Nat.zero_lt_of_lt low), htail⟩, tick, ring, moderation, block⟩

/-- Holding a response touches no counter. -/
theorem CountersInRange.respond {s : State} (hs : CountersInRange s) (kind : ResponseKind) (r : Request) (a : Answer) :
    CountersInRange (s.holdResponse kind r a) :=
  ⟨hs.fetch, hs.tick, hs.ring, hs.moderation, hs.block⟩

theorem CountersInRange.withWriter {s : State} (hs : CountersInRange s) {w : CompletionWriter} (hring : RingInRange w)
    (hmoderation : ModerationInRange w) : CountersInRange (s.withWriter w) :=
  ⟨hs.fetch, hs.tick, hring, hmoderation, hs.block⟩

theorem countRecord_inRange {s : State} (hs : CountersInRange s) : CountersInRange (countRecord s) :=
  hs.quiet (countRecord_quiet s) (countRecord_timers s).time (countRecord_moderation hs.moderation)

theorem returnRecord_inRange (w : CompletionWrite) {s : State} (hs : CountersInRange s) :
    CountersInRange (returnRecord w s) :=
  (hs.withWriter (ended_ring hs.ring) hs.moderation).quiet (returnRecord_quiet w s) (returnRecord_timers w s).time
    ((returnRecord_moderates w s).inRange hs.moderation)

theorem issueReport_inRange (src : Source) {s : State} (hs : CountersInRange s) (hfull : s.writer.full = false) :
    CountersInRange (issueReport src s) := by
  have ring : RingInRange { s.writer with inFlight := (issueReport src s).writer.inFlight } := by
    rw [issueReport_inFlight]; exact issue_ring hs.ring hfull _ _
  exact (hs.withWriter ring hs.moderation).quiet (issueReport_quiet src s) (issueReport_timers src s).time
    ((putReport_moderates src _ (s.withWriter _)).inRange hs.moderation)

theorem acknowledgeReport_inRange (src : Source) (w : CompletionWrite) {s : State} (hs : CountersInRange s) :
    CountersInRange (acknowledgeReport src w s) := by
  have ended : CountersInRange (s.withWriter (s.writer.acknowledge 0 (s.writer.fenceMark.map (· - 1)))) :=
    hs.withWriter (acknowledge_ring hs.ring (Nat.zero_le 4) _) hs.moderation
  exact countRecord_inRange (ended.quiet (leaveQueue_quiet src _ _) (leaveQueue_timers src _ _).time
    ((leaveQueue_moderates src _ _).inRange ended.moderation))

theorem acknowledgeResponse_inRange (w : CompletionWrite) {s : State} (hs : CountersInRange s) :
    CountersInRange (acknowledgeResponse w s) := by
  have ended : CountersInRange (s.withWriter (s.writer.acknowledge (nextFairness w s.writer.fairness)
      (if s.holdsFence then none else s.writer.fenceMark))) :=
    hs.withWriter (acknowledge_ring hs.ring (nextFairness_le w _) _) hs.moderation
  exact countRecord_inRange (settlePause_inRange ⟨ended.fetch, ended.tick, ended.ring, ended.moderation, ended.block⟩)

theorem Move.inRange {c : Instr} {s t : State} (h : Move c s t) (hs : CountersInRange s) : CountersInRange t := by
  obtain ⟨fetch, tick, ring, moderation, block⟩ := id hs
  cases h with
  | stay => exact hs
  | expiry n => exact (takeExpiry_acts n s).inRange hs
  | edge n share => exact (takeEdge_acts n share s).inRange hs
  | pulseEnd n => exact (Act.pulseEnd n).single.inRange hs
  | moderation => exact (moderationExpiry_acts s).inRange hs
  | tick pins => exact beginTick_inRange pins ((finishTick_acts s).inRange hs)
  | powerOn => exact countersInRange_of_powerOn rfl rfl rfl rfl
  | reset => exact controllerReset_inRange hs
  | window x hx => exact ⟨fetch, tick, ring, moderation, fun b hb => block b (hx.heldBlock ▸ hb)⟩
  | submitTail v hv => exact ⟨⟨fetch.1, fetch.2.1, fetch.2.2.1, hv⟩, tick, ring, moderation, block⟩
  | completeHead v hv => exact ⟨fetch, tick, completeHead_ring ring hv, moderation, block⟩
  | dropFetch => exact ⟨fetch, tick, ring, moderation, block⟩
  | dropWrite => exact ⟨fetch, tick, ⟨ring.entries, ring.writeIndex, ring.completeHead, ring.fairness, ring.next⟩,
      moderation, block⟩
  | load => exact ⟨fetch, tick, ring, moderation, fun _ hb => nomatch hb⟩
  | pause => exact settlePause_inRange ⟨fetch, tick, ring, moderation, block⟩
  | resume => exact ⟨fetch, tick, ring, moderation, block⟩
  | readFails cause => exact enterFaulted_inRange cause ⟨fetch, tick, ring, moderation, block⟩
  | readHolds b _ hb => exact ⟨fetch, tick, ring, moderation, fun x hx => Option.some.inj hx ▸ hb⟩
  | apply b h hw => exact applyBlock_inRange hs h hw
  | fetch => exact ⟨fetch, tick, ring, moderation, block⟩
  | withdrawn => exact settlePause_inRange ⟨fetch, tick, ring, moderation, block⟩
  | refused => exact (taken_inRange hs).respond _ _ _
  | request k r => exact (owner_inRange k r (taken_inRange hs)).respond _ _ _
  | fetchFails => exact enterFaulted_inRange _ ⟨fetch, tick, ring, moderation, block⟩
  | writeResponse r _ _ hf => exact ⟨fetch, tick, issue_ring ring hf _ _, moderation, block⟩
  | writeReport src _ _ hf => exact issueReport_inRange src hs hf
  | reportAck w src => exact acknowledgeReport_inRange src w hs
  | responseAck w => exact acknowledgeResponse_inRange w hs
  | writeFails w => exact enterFaulted_inRange _ (returnRecord_inRange w hs)
  | writeReturns w => exact returnRecord_inRange w hs

theorem idle_inRange {s : State} (hs : CountersInRange s) : CountersInRange (refclkPeriod s) := by
  obtain ⟨fetch, ⟨t1, t2, t3, t4, t5⟩, ring, moderation, block⟩ := hs
  refine ⟨fetch, ⟨t1, t2, t3, t4, ?_⟩, ring, moderation, block⟩
  show (if s.time.phase + 1 < s.time.tickLength then s.time.phase + 1 else s.time.phase) < s.time.tickLength
  split
  · assumption
  · exact t5

theorem countersStayInRange : CountersStayInRange := by
  have kept : KeptByEveryStep CountersInRange :=
    keptByEveryStep (fun _ _ h => ⟨h.fetch, h.tick, h.ring, h.moderation, h.block⟩) (fun _ => idle_inRange)
      fun _ _ _ => Move.inRange
  intro s t hs h
  exact (countersInRange_iff t).1 (kept s t ((countersInRange_iff s).2 hs) h)

end Sys2Proof.Proofs
end

section
/-! # Input lines: candidates and edges under way

A line's record is sound by itself (R76, R77, R82); what every change makes of it, and that the work a tick finishes
leaves no edge and no acceptance on any line. -/

namespace Sys2Proof.Proofs
open Sys2Proof.Machine Sys2Proof.Claims

/-- A candidate is opposite to the qualified level with a count up to the filter length; an edge under way is one to the
qualified level with parties still to reach, and no acceptance is due meanwhile. -/
def LineSound (l : InputLine) : Prop :=
  (∀ c, l.candidate = some c → c.count ≤ l.filter.toNat ∧ l.qualified = some (!c.level))
    ∧ ∀ e, l.edge = some e → l.qualified = some e.level ∧ e.left? = some e ∧ l.acceptable = none

/-- No edge is under way and no acceptance is due. -/
def LineSettled (l : InputLine) : Prop := l.edge = none ∧ l.acceptable = none

/-! ## What an acceptance is made of -/

theorem acceptable_of_no_candidate {l : InputLine} (h : l.candidate = none) : l.acceptable = none := by
  unfold InputLine.acceptable
  rw [h]

theorem acceptable_eq_some {l : InputLine} {level : Bool} (h : l.acceptable = some level) :
    ∃ c, l.candidate = some c ∧ l.filter.toNat ≤ c.count ∧ c.level = level := by
  unfold InputLine.acceptable at h
  split at h
  · exact nomatch h
  · rename_i c hc
    split at h
    · rename_i hfull; exact ⟨c, hc, hfull, Option.some.inj h⟩
    · exact nomatch h

theorem acceptable_eq_none {l : InputLine} (h : l.acceptable = none) {c : Candidate} (hc : l.candidate = some c) :
    c.count < l.filter.toNat := by
  unfold InputLine.acceptable at h
  rw [hc] at h
  by_contra hfull
  dsimp only at h
  rw [if_pos (Nat.not_lt.1 hfull)] at h
  exact nomatch h

theorem left?_eq_some {e e' : EdgeUnderWay} (h : e.left? = some e') : e' = e := by
  unfold EdgeUnderWay.left? at h
  split at h
  · exact nomatch h
  · exact (Option.some.inj h).symm

/-! ## The records that the changes make -/

theorem lineSound_reset : LineSound .reset := ⟨nofun, nofun⟩

/-- The status is no part of what a sound record says. -/
theorem LineSound.withActive {l : InputLine} (h : LineSound l) (active : Bool) : LineSound { l with active := active } := h

theorem LineSound.accept {l : InputLine} (level : Bool) (time : Time) :
    LineSound { l with
      qualified := some level, candidate := none
      edge := some { level := level, time := time, next := 0, statusDue := true } } := by
  refine ⟨nofun, fun e he => ?_⟩
  obtain rfl := Option.some.inj he
  exact ⟨rfl, by simp [EdgeUnderWay.left?], acceptable_of_no_candidate rfl⟩

/-- An edge that has come further has reached all its parties or is still a sound one. -/
theorem LineSound.mark {l : InputLine} (h : LineSound l) {e e' : EdgeUnderWay} (he : l.edge = some e)
    (hl : e'.level = e.level) : LineSound { l with edge := e'.left? } := by
  obtain ⟨candidate, edge⟩ := h
  obtain ⟨hlevel, -, hacc⟩ := edge e he
  refine ⟨candidate, fun x (hx : e'.left? = some x) => ?_⟩
  obtain rfl := left?_eq_some hx
  exact ⟨hlevel.trans (congrArg some hl.symm), hx, hacc⟩

theorem LineSound.configure {l : InputLine} (h : LineSound l) (filter : BitVec 8) (level : TripLevel) :
    LineSound (l.configure filter level) := by
  obtain ⟨candidate, edge⟩ := h
  refine ⟨fun c (hc : l.acceptable.map _ = some c) => ?_, fun e he => ?_⟩
  · obtain ⟨sample, hsample, rfl⟩ := Option.map_eq_some_iff.1 hc
    obtain ⟨d, hd, -, rfl⟩ := acceptable_eq_some hsample
    exact ⟨Nat.zero_le _, (candidate d hd).2⟩
  · obtain ⟨hlevel, hleft, hacc⟩ := edge e he
    exact ⟨hlevel, hleft, acceptable_of_no_candidate (by show l.acceptable.map _ = none; rw [hacc]; rfl)⟩

/-- A sample taken with no edge under way and no acceptance due leaves a sound record (R75, R76). -/
theorem LineSound.sample {l : InputLine} (h : LineSound l) (hsettled : LineSettled l) (level : Bool) :
    LineSound (l.sample level) := by
  obtain ⟨candidate, -⟩ := h
  obtain ⟨hedge, hacc⟩ := hsettled
  have noedge {x : InputLine} (hx : x.edge = l.edge) : ∀ e, x.edge = some e →
      x.qualified = some e.level ∧ e.left? = some e ∧ x.acceptable = none := fun e he => by
    rw [hx, hedge] at he; exact nomatch he
  unfold InputLine.sample
  split
  · rename_i hq
    refine ⟨fun c hc => ?_, noedge rfl⟩
    exact absurd ((candidate c hc).2.symm.trans hq) nofun
  · rename_i q hq
    split
    · exact ⟨fun _ hc => (nomatch hc), noedge rfl⟩
    · rename_i hdiffers
      refine ⟨fun c (hc : some (nextCandidate level l.candidate) = some c) => ?_, noedge rfl⟩
      obtain rfl := Option.some.inj hc
      cases hcand : l.candidate with
      | none =>
        refine ⟨Nat.zero_le _, ?_⟩
        rw [show q = !level from by cases q <;> cases level <;> simp_all] at hq
        exact hq
      | some d => exact ⟨acceptable_eq_none hacc hcand, (candidate d hcand).2⟩

/-! ## The changes -/

theorem line_sound {s : State} (h : InputsSound s) (n : InputNumber) : LineSound s.inputs[n] := h n

theorem inputs_congr {s t : State} (h : t.inputs = s.inputs) (hs : InputsSound s) : InputsSound t := by
  unfold InputsSound
  rw [h]
  exact hs

theorem putInput_sound {n : InputNumber} {l : InputLine} (hl : LineSound l) {s : State} (hs : InputsSound s) :
    InputsSound (s.putInput n l) := by
  intro m
  by_cases hm : m = n
  · subst hm; rw [State.putInput_input]; exact hl
  · rw [putInput_input_ne l s hm]; exact hs m

theorem reevaluate_inputsSound (n : InputNumber) {s : State} (hs : InputsSound s) : InputsSound (s.reevaluate n) := by
  rcases reevaluate_cases n s with ⟨-, h⟩ | ⟨-, -, h⟩ | ⟨-, -, h⟩ <;> rw [h]
  · exact hs
  · exact inputs_congr (State.raise_inputs _ _) (putInput_sound ((line_sound hs n).withActive true) hs)
  · exact inputs_congr (s := s.putInput n { s.inputs[n] with active := false }) rfl
      (putInput_sound ((line_sound hs n).withActive false) hs)

theorem performAction_inputs (x : Option Action) (s : State) : (s.performAction x).inputs = s.inputs := by
  rw [State.performAction_frame]

theorem Act.inputsSound {s t : State} (h : Act s t) (hs : InputsSound s) : InputsSound t := by
  cases h with
  | action x => exact inputs_congr (performAction_inputs x s) hs
  | arming n a => exact inputs_congr (State.putArming_inputs n a s) hs
  | event src o makesPending => exact inputs_congr (State.recordEvent_inputs src o makesPending s) hs
  | raise r => exact inputs_congr (State.raise_inputs r s) hs
  | accept n =>
    rcases beginEdge_cases n s with ⟨e, -, h⟩ | ⟨-, -, h⟩ | ⟨level, -, -, h⟩ <;> rw [h]
    · exact hs
    · exact hs
    · exact putInput_sound (.accept level _) hs
  | mark n e e' he hl => exact putInput_sound ((line_sound hs n).mark he hl) hs
  | reevaluate n => exact reevaluate_inputsSound n hs
  | _ => exact hs

theorem Acts.inputsSound {s t : State} (h : Acts s t) (hs : InputsSound s) : InputsSound t :=
  acts_keep (Inv := InputsSound) (fun _ _ => Act.inputsSound) h hs

theorem RequestAct.inputsSound {k : RequestKind} {s t : State} (h : RequestAct k s t) (hs : InputsSound s) :
    InputsSound t := by
  cases h with
  | act h => exact h.inputsSound hs
  | groups => exact inputs_congr (by rw [setGroups, State.withGroups_inputs]) hs
  | cancel n => exact inputs_congr (cancelSlot_inputs n s) hs
  | configure n filter level => exact putInput_sound ((line_sound hs n).configure filter level) hs
  | move d => exact inputs_congr (moveTime_inputs d s) hs
  | _ => exact hs

/-! ## An edge taken whole -/

theorem reevaluate_input (n : InputNumber) (s : State) :
    (s.reevaluate n).inputs[n] = { s.inputs[n] with active := s.inputs[n].atTripLevel } := by
  rcases reevaluate_cases n s with ⟨hl, h⟩ | ⟨hl, ha, h⟩ | ⟨hl, ha, h⟩ <;> rw [h]
  · rw [hl]
  · rw [State.raise_inputs, State.putInput_input, hl]
  · show (s.putInput n { s.inputs[n] with active := false }).inputs[n] = _
    rw [State.putInput_input, hl]

theorem reevaluate_input_ne {n m : InputNumber} (s : State) (hm : m ≠ n) :
    (s.reevaluate n).inputs[m] = s.inputs[m] := by
  rcases reevaluate_cases n s with ⟨-, h⟩ | ⟨-, -, h⟩ | ⟨-, -, h⟩ <;> rw [h]
  · rw [State.raise_inputs, putInput_input_ne _ s hm]
  · exact putInput_input_ne { s.inputs[n] with active := false } s hm

theorem beginEdge_input_ne {n m : InputNumber} (s : State) (hm : m ≠ n) : (beginEdge n s).inputs[m] = s.inputs[m] := by
  rcases beginEdge_cases n s with ⟨e, -, h⟩ | ⟨-, -, h⟩ | ⟨level, -, -, h⟩ <;> rw [h]
  rw [putInput_input_ne _ s hm]

theorem offersOfEdge_input_ne {n m : InputNumber} (bound : Fin 257) (s : State) (hm : m ≠ n) :
    (offersOfEdge n bound s).inputs[m] = s.inputs[m] := by
  cases he : s.inputs[n].edge with
  | none => simp only [offersOfEdge, he]
  | some e => rw [offersOfEdge_inputs he]; exact putInput_input_ne _ s hm

theorem offersOfEdge_none {n : InputNumber} {s : State} (h : s.inputs[n].edge = none) (bound : Fin 257) :
    offersOfEdge n bound s = s := by
  simp only [offersOfEdge, h]

theorem statusOfEdge_none {n : InputNumber} {s : State} (h : s.inputs[n].edge = none) : statusOfEdge n s = s := by
  simp only [statusOfEdge, h]

theorem statusOfEdge_input_ne {n m : InputNumber} (s : State) (hm : m ≠ n) :
    (statusOfEdge n s).inputs[m] = s.inputs[m] := by
  rcases statusOfEdge_cases n s with ⟨h, -⟩ | ⟨e, -, -, h⟩ <;> rw [h]
  rw [reevaluate_input_ne _ hm]
  exact putInput_input_ne _ s hm

/-- All offers made move the mark of the edge to its end. -/
theorem offersOfEdge_last_input {n : InputNumber} {s : State} {e : EdgeUnderWay} (h : s.inputs[n].edge = some e) :
    (offersOfEdge n (Fin.last 256) s).inputs[n]
      = { s.inputs[n] with edge := if e.statusDue then some { e with next := Fin.last 256 } else none } := by
  have hmax : max e.next (Fin.last 256) = Fin.last 256 := max_eq_right (Fin.le_last _)
  rw [offersOfEdge_inputs h, hmax, State.putEdge, State.putInput_input]
  cases hs : e.statusDue <;> simp [EdgeUnderWay.left?]

/-- The status taken removes the edge when all offers are made. -/
theorem statusOfEdge_input {n : InputNumber} {s : State} {e : EdgeUnderWay} (h : s.inputs[n].edge = some e)
    (hdue : e.statusDue = true) :
    (statusOfEdge n s).inputs[n] = { s.inputs[n] with
      edge := if e.next = Fin.last 256 then none else some { e with statusDue := false }
      active := s.inputs[n].atTripLevel } := by
  rcases statusOfEdge_cases n s with ⟨-, hnot⟩ | ⟨f, hf, -, hs⟩
  · rw [hnot e h] at hdue; exact nomatch hdue
  · obtain rfl := Option.some.inj (h.symm.trans hf)
    rw [hs, reevaluate_input, State.putEdge, State.putInput_input]
    simp [EdgeUnderWay.left?, InputLine.atTripLevel]

theorem statusOfEdge_not_due {n : InputNumber} {s : State} {e : EdgeUnderWay} (h : s.inputs[n].edge = some e)
    (hdue : e.statusDue = false) : statusOfEdge n s = s := by
  rcases statusOfEdge_cases n s with ⟨hs, -⟩ | ⟨f, hf, hfd, -⟩
  · exact hs
  · rw [← Option.some.inj (h.symm.trans hf), hdue] at hfd; exact nomatch hfd

/-- Both shares of an edge under way leave no edge, and the status as the level asks where it was still due. -/
theorem sharesOfEdge_input {n : InputNumber} {s : State} {e : EdgeUnderWay} (h : s.inputs[n].edge = some e) :
    (statusOfEdge n (offersOfEdge n (Fin.last 256) s)).inputs[n] = { s.inputs[n] with
      edge := none, active := if e.statusDue then s.inputs[n].atTripLevel else s.inputs[n].active } := by
  have offered := offersOfEdge_last_input h
  cases hdue : e.statusDue with
  | true =>
    rw [hdue, if_pos rfl] at offered
    rw [statusOfEdge_input (e := { e with next := Fin.last 256 }) (by rw [offered, hdue]) hdue, offered]
    simp [InputLine.atTripLevel]
  | false =>
    rw [hdue, if_neg nofun] at offered
    rw [statusOfEdge_none (by rw [offered]), offered]
    simp

theorem takeEdge_input_ne {n m : InputNumber} (s : State) (hm : m ≠ n) :
    (takeEdge n .slotsFirst s).inputs[m] = s.inputs[m] := by
  rw [takeEdge, statusOfEdge_input_ne _ hm, offersOfEdge_input_ne _ _ hm, beginEdge_input_ne s hm]

/-- An EDGE that takes an edge whole leaves none on its line (R77, R82). -/
theorem takeEdge_settles {n : InputNumber} {s : State} (hs : InputsSound s) :
    LineSettled (takeEdge n .slotsFirst s).inputs[n] := by
  have begun : InputsSound (beginEdge n s) := (Act.accept n).inputsSound hs
  cases he : (beginEdge n s).inputs[n].edge with
  | some e =>
    rw [takeEdge, sharesOfEdge_input he]
    exact ⟨rfl, (line_sound begun n).2 e he |>.2.2⟩
  | none =>
    rw [takeEdge, offersOfEdge_none he, statusOfEdge_none he]
    refine ⟨he, ?_⟩
    rcases beginEdge_cases n s with ⟨e, hedge, h⟩ | ⟨-, hacc, h⟩ | ⟨level, -, -, h⟩ <;> rw [h] at he ⊢
    · rw [hedge] at he; exact nomatch he
    · exact hacc
    · rw [State.putInput_input] at he; exact nomatch he

/-- Taken line by line, no line of the list keeps an edge or an acceptance. -/
theorem takeEdges_settle (l : List InputNumber) {s : State} (hs : InputsSound s) (n : InputNumber)
    (h : n ∈ l ∨ LineSettled s.inputs[n]) : LineSettled (l.foldl (fun t m => takeEdge m .slotsFirst t) s).inputs[n] := by
  induction l generalizing s with
  | nil => exact h.resolve_left nofun
  | cons m l ih =>
    refine ih ((takeEdge_acts m .slotsFirst s).inputsSound hs) ?_
    by_cases hm : n = m
    · subst hm; exact .inr (takeEdge_settles hs)
    · rw [takeEdge_input_ne s hm]
      exact h.imp_left fun h => (List.mem_cons.1 h).resolve_left hm

theorem finishTick_settles {s : State} (hs : InputsSound s) (n : InputNumber) : LineSettled (finishTick s).inputs[n] := by
  have due : InputsSound (takePulseEnds (takeDue s)) :=
    Acts.inputsSound ((takeDue_acts s).tail .pulseEnds) hs
  rw [finishTick, (moderationExpiry_timers _).inputs]
  exact takeEdges_settle _ due n (.inl (List.mem_finRange n))

/-! ## What every step keeps -/

theorem inputsSound_reset : InputsSound .reset := fun n => by
  rw [reset_input]; exact lineSound_reset

theorem inputLinesStaySound : InputLinesStaySound :=
  timersKeptByEveryStep (fun _ _ h => inputs_congr h.inputs) (fun _ _ => Act.inputsSound)
    (fun _ _ _ => RequestAct.inputsSound)
    (fun pins s hs finished n => by
      rw [beginTick_input]; exact (line_sound finished n).sample (finishTick_settles hs n) _)
    (fun _ h => h) inputsSound_reset (fun _ h => h)
    fun b s => inputs_congr (applyBlock_inputs b s)

/-- Settles O54: the counters are each moved within their range, and the write in flight stays one of the next record since
its entry is released only when it has ended; a sample comes only after every edge and acceptance of its line. -/
theorem rangesAreKept : Obligations.RangesAreKept := ⟨countersStayInRange, inputLinesStaySound⟩

end Sys2Proof.Proofs
end

section
/-! # Responses and reports: who waits for whom

What the moves do to the held response, the fence mark, the length of the report queue and the source of the write in flight
(R155, R160, R161). -/

namespace Sys2Proof.Proofs
open Sys2Proof.Machine Sys2Proof.Claims

/-! ## The moves, by what they do to responses and marks -/

/-- Response and mark are as before, the queue holds at least as many reports, and a write in flight was in flight
before. -/
structure Waits (s t : State) : Prop where
  held : t.held = s.held
  mark : t.writer.fenceMark = s.writer.fenceMark
  queue : s.writer.queue.length ≤ t.writer.queue.length
  flight : ∀ w, t.writer.inFlight = some w → ∃ v, s.writer.inFlight = some v ∧ v.source = w.source

theorem Waits.refl (s : State) : Waits s s := ⟨rfl, rfl, le_rfl, fun w h => ⟨w, h, rfl⟩⟩

theorem Waits.trans {s t u : State} (h : Waits s t) (k : Waits t u) : Waits s u where
  held := k.held.trans h.held
  mark := k.mark.trans h.mark
  queue := h.queue.trans k.queue
  flight w hw := by
    obtain ⟨v, hv, hvw⟩ := k.flight w hw
    obtain ⟨x, hx, hxv⟩ := h.flight v hv
    exact ⟨x, hx, hxv.trans hvw⟩

theorem Waits.of_eq {s t : State} (hheld : t.held = s.held) (hmark : t.writer.fenceMark = s.writer.fenceMark)
    (hqueue : t.writer.queue = s.writer.queue)
    (hflight : t.writer.inFlight = none ∨ t.writer.inFlight = s.writer.inFlight) :
    Waits s t where
  held := hheld
  mark := hmark
  queue := by rw [hqueue]
  flight w hw := by
    rcases hflight with h | h <;> rw [h] at hw
    · exact nomatch hw
    · exact ⟨w, hw, rfl⟩

theorem Waits.same {s t : State} (hheld : t.held = s.held) (hwriter : t.writer = s.writer) : Waits s t :=
  .of_eq hheld (by rw [hwriter]) (by rw [hwriter]) (.inr (by rw [hwriter]))

/-- What a command can make of response, mark, queue and write in flight. -/
inductive ResponseMove (s : State) : State → Prop
  | kept {t : State} (h : Waits s t) : ResponseMove s t
  | ends {t : State} (held : t.held = none)
      (mark : t.writer.fenceMark = none
        ∨ t.writer.fenceMark = s.writer.fenceMark ∧ s.writer.queue.length ≤ t.writer.queue.length) : ResponseMove s t
  | respond {u : State} (k : RequestKind) (h : Arrives s) (hu : RequestActs k (taken s) u) (kind : ResponseKind)
      (hfence : kind = .fence → u.writer.fenceMark ≠ none) (harm : ∀ n, kind = .acceptedArm n → s.slotPending n = false)
      (r : Request) (a : Answer) : ResponseMove s (u.holdResponse kind r a)
  | response (r : HeldResponse) (h : s.choose = .response r) : ResponseMove s (issueResponse r s)
  | report (src : Source) (h : s.choose = .report src) : ResponseMove s (issueReport src s)
  | reportEnds {t : State} (held : t.held = s.held) (mark : t.writer.fenceMark = s.writer.fenceMark.map (· - 1))
      (queue : s.writer.queue.length - 1 ≤ t.writer.queue.length) (flight : t.writer.inFlight = none) : ResponseMove s t

/-! ## The changes keep what waits -/

theorem recordEvent_queue_le (src : Source) (o : Occurrence) (makesPending : Bool) (s : State) :
    s.writer.queue.length ≤ (s.recordEvent src o makesPending).writer.queue.length := by
  cases makesPending with
  | false => rw [(recordEvent_silent src o s).1]
  | true =>
    cases hstate : (s.report src).state with
    | none => rw [(recordEvent_joins hstate o).1, List.length_append]; exact Nat.le_add_right _ _
    | pending => rw [(recordEvent_notes hstate o).1]

theorem raise_queue_le (r : Raise) (s : State) : s.writer.queue.length ≤ (s.raise r).writer.queue.length := by
  obtain ⟨u, h, -, hwriter⟩ := raise_eq_event r s
  rw [h, ← hwriter]
  exact recordEvent_queue_le _ _ _ u

theorem Act.queue_le {s t : State} (h : Act s t) : s.writer.queue.length ≤ t.writer.queue.length := by
  cases h with
  | action x => rw [State.performAction_writer]
  | arming n a => rw [State.putArming_writer]
  | event src o makesPending => exact recordEvent_queue_le src o makesPending s
  | raise r => exact raise_queue_le r s
  | accept n => rw [(beginEdge_sameReports n s).queue]
  | reevaluate n =>
    rcases reevaluate_cases n s with ⟨-, h⟩ | ⟨-, -, h⟩ | ⟨-, -, h⟩ <;> rw [h]
    · exact raise_queue_le _ (s.putInput n _)
    · exact le_rfl
  | _ => exact le_rfl

/-- The source of the write in flight is none of what a quiet change leaves open. -/
theorem Quiet.flight_source {s t : State} (h : Quiet s t) (w : CompletionWrite) (hw : t.writer.inFlight = some w) :
    ∃ v, s.writer.inFlight = some v ∧ v.source = w.source := by
  obtain ⟨v, hv, hvw⟩ := h.write hw
  exact ⟨v, hv, source_of_unnoted hvw⟩

theorem Acts.waits {s t : State} (h : Acts s t) : Waits s t where
  held := h.still.held
  mark := h.still.fenceMark
  queue := by
    induction h with
    | refl => exact le_rfl
    | tail _ hstep ih => exact ih.trans hstep.queue_le
  flight := h.still.toQuiet.flight_source

theorem enterFaulted_waits (cause : FaultCause) (s : State) : Waits s (s.enterFaulted cause) := by
  have faulted (c : ControlBlock) (f : FetchUnit) : Waits s (((s.withControl c).withFetch f).setCause intFault) :=
    .of_eq rfl rfl rfl (.inr rfl)
  unfold State.enterFaulted
  dsimp only
  split
  · exact (faulted _ _).trans (Act.raise (.controllerFault cause) nofun).single.waits
  · exact faulted _ _

theorem settlePause_held (s : State) : s.settlePause.held = s.held := by
  rcases State.settlePause_cases s with ⟨-, -, -, h⟩ | ⟨-, h⟩ <;> rw [h]
  rfl

theorem settlePause_waits (s : State) : Waits s s.settlePause :=
  .of_eq (settlePause_held s) (by rw [settlePause_writer]) (by rw [settlePause_writer]) (.inr (by rw [settlePause_writer]))

theorem putReport_waits (src : Source) (r : Report) (s : State) : Waits s (s.putReport src r) := by
  cases src <;> exact .of_eq rfl rfl rfl (.inr rfl)

/-- The issue of a report, up to the write in flight. -/
theorem issueReport_waits (src : Source) (s : State) :
    Waits (s.withWriter { s.writer with inFlight := (issueReport src s).writer.inFlight }) (issueReport src s) := by
  rw [issueReport_inFlight]
  exact putReport_waits src _ _

theorem countRecord_waits (s : State) : Waits s (countRecord s) := by
  unfold countRecord
  dsimp only
  split <;> exact .of_eq rfl rfl rfl (.inr rfl)

theorem returnRecord_waits (w : CompletionWrite) (s : State) : Waits s (returnRecord w s) := by
  have ended : Waits s (s.withWriter { s.writer with inFlight := none }) := .of_eq rfl rfl rfl (.inl rfl)
  unfold returnRecord
  dsimp only
  split
  · exact ended
  · exact ended.trans (putReport_waits _ _ _)

theorem applyBlock_waits (b : ConfigBlock) (s : State) : Waits s (applyBlock b s) :=
  .of_eq (applyBlock_held b s) (by rw [applyBlock_writer]; rfl) (by rw [applyBlock_writer]; rfl)
    (.inr (by rw [applyBlock_writer]; rfl))

theorem beginTick_waits (pins : BitVec 8) (s : State) : Waits s (beginTick pins s) :=
  .of_eq (beginTick_quiet pins s).held (by rw [beginTick_writer]) (by rw [beginTick_writer])
    (.inr (by rw [beginTick_writer]))

/-! ## The ends of writes -/

theorem leaveQueue_mark (src : Source) (rejoins : Bool) (s : State) :
    (leaveQueue src rejoins s).writer.fenceMark = s.writer.fenceMark := by
  have left : ((s.withWriter { s.writer with queue := s.writer.queue.erase src }).putReport src
      ((s.report src).acknowledged rejoins)).writer.fenceMark = s.writer.fenceMark := (putReport_waits src _ _).mark
  cases rejoins <;> exact left

theorem acknowledgeReport_responseMove (src : Source) (w : CompletionWrite) (s : State) :
    ResponseMove s (acknowledgeReport src w s) := by
  have counted := countRecord_waits (leaveQueue src (w.eventNoted || w.cancelNoted)
    (s.withWriter (s.writer.acknowledge 0 (s.writer.fenceMark.map (· - 1)))))
  refine .reportEnds (acknowledgeReport_quiet src w s).held ?_ ?_ ?_
  · exact counted.mark.trans (leaveQueue_mark src _ _)
  · refine le_trans ?_ counted.queue
    rw [leaveQueue_queue]
    have erased : s.writer.queue.length - 1 ≤ (s.writer.queue.erase src).length := List.le_length_erase
    split
    · rw [List.length_append]; exact erased.trans (Nat.le_add_right _ _)
    · rw [List.append_nil]; exact erased
  · cases hflight : (acknowledgeReport src w s).writer.inFlight with
    | none => rfl
    | some x =>
      obtain ⟨v, hv, -⟩ := (acknowledgeReport_quiet src w s).write hflight
      exact nomatch hv

theorem acknowledgeResponse_responseMove (w : CompletionWrite) (s : State) : ResponseMove s (acknowledgeResponse w s) := by
  have ended := (settlePause_waits (((s.withWriter (s.writer.acknowledge (nextFairness w s.writer.fairness)
    (if s.holdsFence then none else s.writer.fenceMark))).withHeld none))).trans (countRecord_waits _)
  refine .ends ended.held ?_
  have mark : (acknowledgeResponse w s).writer.fenceMark = if s.holdsFence then none else s.writer.fenceMark := ended.mark
  by_cases hfence : s.holdsFence = true
  · rw [if_pos hfence] at mark; exact .inl mark
  · rw [if_neg hfence] at mark; exact .inr ⟨mark, ended.queue⟩

/-! ## Every move -/

theorem kind_of_fence {k : RequestKind} {a : Answer} (h : responseKind k a = .fence) : k = .fence := by
  unfold responseKind at h
  split at h <;> simp at h ⊢

theorem kind_of_acceptedArm {k : RequestKind} {a : Answer} {n : SlotNumber} (h : responseKind k a = .acceptedArm n) :
    k = .arm ∧ a.status = .ok ∧ a.named = some n := by
  unfold responseKind at h
  split at h
  · exact nomatch h
  · rename_i hstatus hnamed; exact ⟨rfl, hstatus, hnamed.trans (congrArg some (ResponseKind.acceptedArm.inj h))⟩
  · exact nomatch h

/-- An ARM is accepted only on a slot with no report pending (R25). -/
theorem takeArm_ok {r : Request} {s : State} {n : SlotNumber} (hstatus : (takeArm r s).2.status = .ok)
    (hnamed : (takeArm r s).2.named = some n) : s.slotPending n = false := by
  unfold takeArm at hstatus hnamed
  split at hstatus
  · rename_i m part policy group hm hpart hpolicy hgroup
    rw [hm, hpart, hpolicy, hgroup] at hnamed
    dsimp only at hnamed
    split at hstatus
    · exact nomatch hstatus
    · rename_i hpending
      rw [if_neg hpending] at hnamed
      have named : m = n := by
        split at hnamed
        · exact Option.some.inj hnamed
        · split at hnamed <;> exact Option.some.inj hnamed
      exact named ▸ Bool.eq_false_iff.2 hpending
  · exact nomatch hstatus

theorem Move.responseMove {c : Instr} {s t : State} (h : Move c s t) : ResponseMove s t := by
  have acts {u : State} (h : Acts s u) : ResponseMove s u := .kept h.waits
  have same {u : State} (hh : u.held = s.held) (hw : u.writer = s.writer) : ResponseMove s u :=
    .kept (.same hh hw)
  have after {u v : State} (hh : u.held = s.held) (hw : u.writer = s.writer) (h : Waits u v) : ResponseMove s v :=
    .kept ((Waits.same hh hw).trans h)
  cases h with
  | stay => exact same rfl rfl
  | expiry n => exact acts (takeExpiry_acts n s)
  | edge n share => exact acts (takeEdge_acts n share s)
  | pulseEnd n => exact acts (Act.pulseEnd n).single
  | moderation => exact acts (moderationExpiry_acts s)
  | tick pins => exact .kept ((finishTick_acts s).waits.trans (beginTick_waits pins _))
  | powerOn => exact .ends rfl (.inl rfl)
  | reset => exact .ends rfl (.inl rfl)
  | completeHead => exact .kept (.of_eq rfl rfl rfl (.inr rfl))
  | dropWrite => exact .kept (.of_eq rfl rfl rfl (.inr rfl))
  | pause => exact after (u := s.withState .pausing) rfl rfl (settlePause_waits _)
  | readFails cause => exact after (u := endRead s) rfl rfl (enterFaulted_waits cause _)
  | apply b => exact .kept (applyBlock_waits b s)
  | withdrawn => exact after (u := s.withFetch { s.fetch with inFlight := none }) rfl rfl (settlePause_waits _)
  | refused r status h => exact .respond .nop h .refl .ordinary nofun nofun r _
  | request k r _ h =>
    refine .respond k h (owner_acts k r _) _ (fun hk => ?_) (fun n hk => ?_) r _
    · obtain rfl := kind_of_fence hk
      exact fun h => nomatch h
    · obtain ⟨rfl, hstatus, hnamed⟩ := kind_of_acceptedArm hk
      exact takeArm_ok (s := taken s) hstatus hnamed
  | fetchFails => exact after (u := s.withFetch { s.fetch with inFlight := none }) rfl rfl (enterFaulted_waits _ _)
  | writeResponse r _ _ _ h => exact .response r h
  | writeReport src _ _ _ h => exact .report src h
  | reportAck w src => exact acknowledgeReport_responseMove src w s
  | responseAck w => exact acknowledgeResponse_responseMove w s
  | writeFails w => exact .kept ((returnRecord_waits w s).trans (enterFaulted_waits _ _))
  | writeReturns w => exact .kept (returnRecord_waits w s)
  | _ => exact same rfl rfl

/-! ## The fence mark (R160, R161) -/

/-- The mark counts no more reports than the queue holds. -/
def MarkInQueue (s : State) : Prop := ∀ k, s.writer.fenceMark = some k → k ≤ s.writer.queue.length

theorem cancelSlot_mark (n : SlotNumber) (s : State) : (cancelSlot n s).writer.fenceMark = s.writer.fenceMark := by
  unfold cancelSlot
  dsimp only
  split <;> rfl

theorem RequestAct.markInQueue {k : RequestKind} {s t : State} (h : RequestAct k s t) (hs : MarkInQueue s) :
    MarkInQueue t := by
  have same {u : State} (hmark : u.writer.fenceMark = s.writer.fenceMark)
      (hqueue : s.writer.queue.length ≤ u.writer.queue.length) : MarkInQueue u :=
    fun k hk => (hs k (hmark ▸ hk)).trans hqueue
  cases h with
  | act h => exact same h.still.fenceMark h.queue_le
  | groups => exact same (by rw [setGroups, State.withGroups_writer]) (by rw [setGroups, State.withGroups_writer])
  | cancel n => exact same (cancelSlot_mark n s) (by rw [(cancelSlot_sameReports n s).queue])
  | fence => exact fun k hk => (Option.some.inj hk).symm.le
  | move d => exact same (by simp [moveTime, takePulseEnds]) (by simp [moveTime, takePulseEnds])
  | _ => exact same rfl le_rfl

theorem RequestActs.markInQueue {k : RequestKind} {s t : State} (h : RequestActs k s t) (hs : MarkInQueue s) :
    MarkInQueue t :=
  acts_keep (Inv := MarkInQueue) (fun _ _ => RequestAct.markInQueue) h hs

theorem Waits.fence {s t : State} (h : Waits s t) (hs : FenceSound s) : FenceSound t := by
  obtain ⟨mark, held⟩ := hs
  unfold FenceSound
  rw [h.mark, h.held]
  exact ⟨fun k hk => (mark k hk).trans h.queue, held⟩

theorem ResponseMove.fence {s t : State} (h : ResponseMove s t) (hs : FenceSound s) : FenceSound t := by
  obtain ⟨mark, held⟩ := id hs
  cases h with
  | kept h => exact h.fence hs
  | ends hheld hmark =>
    refine ⟨fun k hk => ?_, fun x hx => absurd (hheld.symm.trans hx) nofun⟩
    rcases hmark with hmark | ⟨hmark, hqueue⟩ <;> rw [hmark] at hk
    · exact nomatch hk
    · exact (mark k hk).trans hqueue
  | @respond u k _ hu kind hfence =>
    have marked : MarkInQueue u := RequestActs.markInQueue hu mark
    refine ⟨marked, fun x hx hk => ?_⟩
    obtain rfl := Option.some.inj hx
    exact hfence hk
  | response r => exact hs
  | report src =>
    unfold FenceSound
    rw [issueReport_queue, (issueReport_waits src s).mark, (issueReport_waits src s).held]
    exact hs
  | reportEnds hheld hmark hqueue =>
    unfold FenceSound
    rw [hmark, hheld]
    refine ⟨fun k hk => ?_, fun x hx hk hnone => held x hx hk (Option.map_eq_none_iff.1 hnone)⟩
    obtain ⟨j, hj, rfl⟩ := Option.map_eq_some_iff.1 hk
    exact (Nat.sub_le_sub_right (mark j hj) 1).trans hqueue

/-! ## FENCE responses come last (R154, R161) -/

/-- No response is in flight when a record is taken: none is held then (R135, R145). -/
theorem no_response_of_arrives {s : State} (hs : TrafficSound s) (h : Arrives s) {w : CompletionWrite}
    (hw : s.writer.inFlight = some w) : w.source ≠ .response := by
  obtain ⟨fetch, -, -, write⟩ := hs
  obtain ⟨i, hi⟩ := Option.isSome_iff_exists.1 h.1
  exact fun hsource => (write w hw).2.2 hsource (fetch i hi).2.2

theorem Waits.fenceLast {s t : State} (h : Waits s t) (hs : FenceWrittenLast s) : FenceWrittenLast t := by
  intro w r hw hsource hr hk
  obtain ⟨v, hv, hvw⟩ := h.flight w hw
  rw [h.mark]
  exact hs v r hv (hvw.trans hsource) (h.held ▸ hr) hk

theorem ResponseMove.fenceLast {s t : State} (h : ResponseMove s t) (htraffic : TrafficSound s)
    (hs : FenceWrittenLast s) : FenceWrittenLast t := by
  cases h with
  | kept h => exact h.fenceLast hs
  | ends hheld => exact fun w r _ _ hr => absurd (hheld.symm.trans hr) nofun
  | respond k harrives hu =>
    intro w r hw hsource
    obtain ⟨v, hv, hvw⟩ := hu.quiet.flight_source w hw
    exact absurd (hvw.trans hsource) (no_response_of_arrives htraffic harrives hv)
  | response r h =>
    obtain ⟨hheld, hmark⟩ := choose_response h
    intro w r' _ _ hr hk
    obtain rfl := Option.some.inj (hheld.symm.trans hr)
    exact hmark hk
  | report src =>
    intro w r hw hsource
    rw [issueReport_inFlight] at hw
    obtain rfl := Option.some.inj hw
    exact nomatch hsource
  | reportEnds _ _ _ hflight => exact fun w _ hw => absurd (hflight.symm.trans hw) nofun

/-! ## ARM responses come first (R155) -/

/-- A report is not chosen before the response to the ARM of its slot (R154). -/
theorem choose_report_of_arm {s : State} {src : Source} {r : HeldResponse} {n : SlotNumber} (h : s.choose = .report src)
    (hr : s.held = some r) (hk : r.kind = .acceptedArm n) : src ≠ .slot n := by
  have eligible : s.eligibleResponse = some r := by
    simp [State.eligibleResponse, hr, hk]
  unfold State.choose at h
  rw [eligible] at h
  split at h
  · rename_i hnone _; exact nomatch hnone
  · exact nomatch h
  · rename_i hnone _; exact nomatch hnone
  · rename_i x y hx _
    obtain rfl := Option.some.inj hx
    split at h
    · rename_i hfirst
      rintro rfl
      rw [Choice.report.inj h] at hfirst
      simp [HeldResponse.precedes, hk] at hfirst
    · exact nomatch h

theorem Waits.armFirst {s t : State} (h : Waits s t) (hs : ArmResponseFirst s) : ArmResponseFirst t := by
  intro r n hr hk w formed hw hsource
  obtain ⟨v, hv, hvw⟩ := h.flight w hw
  exact hs r n (h.held ▸ hr) hk v formed hv (hvw.trans hsource)

theorem ResponseMove.armFirst {s t : State} (h : ResponseMove s t) (hqueue : ReportQueueSound s)
    (hs : ArmResponseFirst s) : ArmResponseFirst t := by
  cases h with
  | kept h => exact h.armFirst hs
  | ends hheld => exact fun r n hr => absurd (hheld.symm.trans hr) nofun
  | respond k _ hu kind _ harm =>
    intro r n hr hk w formed hw hsource
    obtain rfl := Option.some.inj hr
    obtain ⟨v, hv, hvw⟩ := hu.quiet.flight_source w hw
    obtain ⟨-, pending, inFlight⟩ := hqueue
    have queued : Source.slot n ∈ s.writer.queue := List.mem_of_head? (inFlight v _ formed hv (hvw.trans hsource))
    have hnone := report_state_of_not_pending (harm n hk)
    exact nomatch hnone.symm.trans ((pending (.slot n)).1 queued)
  | response r =>
    intro _ _ _ _ w formed hw hsource
    obtain rfl := Option.some.inj hw
    exact nomatch hsource
  | report src h =>
    intro r n hr hk w formed hw hsource
    rw [(issueReport_waits src s).held] at hr
    rw [issueReport_inFlight] at hw
    obtain rfl := Option.some.inj hw
    exact choose_report_of_arm h hr hk (WriteSource.report.inj hsource).1
  | reportEnds _ _ _ hflight => exact fun _ _ _ _ w _ hw => absurd (hflight.symm.trans hw) nofun

/-! ## What every step keeps -/

theorem fenceMarkIsKept : FenceMarkIsKept :=
  keptByEveryStep (fun _ _ h => h) (fun _ h => h) fun _ _ _ h => h.responseMove.fence

theorem fenceResponseComesLast : FenceResponseComesLast :=
  keptByEveryStep (fun _ _ h => h) (fun _ h => h) fun _ _ _ h ⟨traffic, fence, last⟩ =>
    ⟨h.traffic traffic, h.responseMove.fence fence, h.responseMove.fenceLast traffic last⟩

theorem armResponseComesFirst : ArmResponseComesFirst :=
  keptByEveryStep (fun s rest ⟨queue, first⟩ =>
      ⟨(SameReports.of_eq (s := s) (t := s.withPending rest) rfl rfl).sound queue, first⟩)
    (fun s ⟨queue, first⟩ => ⟨(withTime_sameReports s _).sound queue, first⟩) fun _ _ _ h ⟨queue, first⟩ =>
    ⟨h.queueSound queue, h.responseMove.armFirst queue first⟩

/-- Settles O56: the queue is only appended to between two acknowledgements, each of which counts the mark down with it; a
FENCE response is issued at mark 0, a report never before the response to the ARM of its slot. -/
theorem responsesKeepTheirPlace : Obligations.ResponsesKeepTheirPlace :=
  ⟨fenceMarkIsKept, fenceResponseComesLast, armResponseComesFirst⟩

end Sys2Proof.Proofs
end

section
/-! # Taking what is due

A slot that is taken is left with a later deadline or none, so the due slots are taken one after another from the head of
the list, and afterwards none is due (R14, R38, R45, R46). -/

namespace Sys2Proof.Proofs
open Sys2Proof.Machine Sys2Proof.Claims

/-! ## States in which expiries can be taken -/

/-- An arming whose intervals are positive and whose state its mode allows. -/
def ArmingSound (a : Arming) : Prop := a.positive ∧ a.phaseFits = true

/-- Every arming is sound. -/
def SlotsSound (s : State) : Prop := ∀ (n : SlotNumber) (a : Arming), s.slots[n].arming = some a → ArmingSound a

/-- The deadline list and the armings are sound: due slots can be taken. -/
structure Ready (s : State) : Prop where
  list : DeadlineListSound s
  slots : SlotsSound s

/-- No slot is due. -/
def NoneDue (s : State) : Prop := ∀ n, s.isDue n = false

/-- No deadline lies before device time. -/
def Ahead (s : State) : Prop := ∀ (n : SlotNumber) (d : Time), s.slots[n].deadline? = some d → s.time.now ≤ d

theorem slotsSound_iff (s : State) : SlotsSound s ↔ SlotStatesSound s ∧ IntervalsSound s :=
  ⟨fun h => ⟨fun n a ha => (h n a ha).2, fun n a ha => (h n a ha).1⟩, fun ⟨states, intervals⟩ n a ha =>
    ⟨intervals n a ha, states n a ha⟩⟩

theorem Ready.congr {s t : State} (h : SameSlots s t) (hs : Ready s) : Ready t :=
  ⟨h.deadlineListSound hs.list, fun n a ha => hs.slots n a (h.arming n ▸ ha)⟩

theorem Ahead.congr {s t : State} (h : SameSlots s t) (ht : t.time.now = s.time.now) (hs : Ahead s) : Ahead t := by
  intro n d hd
  rw [ht]
  exact hs n d (Slot.deadline?_congr (h.arming n) ▸ hd)

theorem isDue_congr {s t : State} (ht : t.time.now = s.time.now) {n : SlotNumber}
    (h : t.slots[n].arming = s.slots[n].arming) : t.isDue n = s.isDue n := by
  unfold State.isDue
  rw [Slot.deadline?_congr h, ht]

theorem NoneDue.congr {s t : State} (h : SameSlots s t) (ht : t.time.now = s.time.now) (hs : NoneDue s) : NoneDue t :=
  fun n => (isDue_congr ht (h.arming n)).trans (hs n)

/-- A slot that is not due has its deadline ahead. -/
theorem lt_of_not_due {s : State} {n : SlotNumber} (h : s.isDue n = false) {d : Time}
    (hd : s.slots[n].deadline? = some d) : s.time.now < d := by
  by_contra hle
  rw [BitVec.not_lt] at hle
  exact Bool.false_ne_true (h.symm.trans ((State.isDue_iff n s).2 ⟨d, hd, hle⟩))

theorem NoneDue.ahead {s : State} (h : NoneDue s) : Ahead s := fun n _ hd =>
  BitVec.le_of_lt (lt_of_not_due (h n) hd)

/-! ## One slot set anew -/

/-- A claim on slot `n` leaves it IDLE, or with a sound arming and a deadline ahead, and every other arming as it was. -/
structure Retimes (n : SlotNumber) (s t : State) : Prop where
  time : t.time = s.time
  list : DeadlineListSound s → DeadlineListSound t
  other : ∀ m : SlotNumber, m ≠ n → t.slots[m].arming = s.slots[m].arming
  sound : ∀ a, t.slots[n].arming = some a → ArmingSound a
  notDue : t.isDue n = false

theorem retimes_of_leaves {n : SlotNumber} {s t : State} {after : Option Arming} (h : Leaves n s t after) :
    Retimes n s t where
  time := h.time
  list := h.deadlineListSound
  other _ hm := h.arming_ne hm
  sound a ha := by
    obtain ⟨positive, fits, -⟩ := h.sound a (h.arming_self.symm.trans ha)
    exact ⟨positive, fits⟩
  notDue := h.not_due

theorem Retimes.ready {n : SlotNumber} {s t : State} (h : Retimes n s t) (hs : Ready s) : Ready t := by
  refine ⟨h.list hs.list, fun m a ha => ?_⟩
  by_cases hm : m = n
  · subst hm; exact h.sound a ha
  · exact hs.slots m a ((h.other m hm).symm.trans ha)

theorem Retimes.isDue {n m : SlotNumber} {s t : State} (h : Retimes n s t) (hm : m ≠ n) : t.isDue m = s.isDue m :=
  isDue_congr (by rw [h.time]) (h.other m hm)

theorem Retimes.noneDue {n : SlotNumber} {s t : State} (h : Retimes n s t) (hs : NoneDue s) : NoneDue t := by
  intro m
  by_cases hm : m = n
  · subst hm; exact h.notDue
  · exact (h.isDue hm).trans (hs m)

theorem Retimes.ahead {n : SlotNumber} {s t : State} (h : Retimes n s t) (hs : Ahead s) : Ahead t := by
  intro m d hd
  by_cases hm : m = n
  · subst hm; exact BitVec.le_of_lt (lt_of_not_due h.notDue hd)
  · rw [h.time]; exact hs m d (Slot.deadline?_congr (h.other m hm) ▸ hd)

/-- A due slot is set anew by its taking. -/
theorem takeExpiry_leaves_of_due {n : SlotNumber} {s : State} (hs : SlotsSound s) (h : s.isDue n = true) :
    ∃ after, Leaves n s (takeExpiry n s) after := by
  obtain ⟨d, hd, hle⟩ := (State.isDue_iff n s).1 h
  obtain ⟨a, ha, hd⟩ := Option.bind_eq_some_iff.1 hd
  exact takeExpiry_leaves ha hd hle (hs n a ha).1 (hs n a ha).2

theorem takeExpiry_retimes {n : SlotNumber} {s : State} (hs : SlotsSound s) (h : s.isDue n = true) :
    Retimes n s (takeExpiry n s) := by
  obtain ⟨after, leaves⟩ := takeExpiry_leaves_of_due hs h
  exact retimes_of_leaves leaves

/-- A sound arming placed in the list is due no longer after its insertion (R46). -/
theorem takeAtInsertion_retimes {n : SlotNumber} {s t : State} (ht : t.time = s.time)
    (hl : DeadlineListSound s → DeadlineListSound t)
    (hother : ∀ m : SlotNumber, m ≠ n → t.slots[m].arming = s.slots[m].arming)
    (hsound : ∀ a, t.slots[n].arming = some a → ArmingSound a) : Retimes n s (takeAtInsertion n t) := by
  rcases takeAtInsertion_cases (n := n) (s := t) hsound with ⟨hd, h⟩ | ⟨after, leaves⟩
  · rw [h]; exact ⟨ht, hl, hother, hsound, hd⟩
  · have retimes := retimes_of_leaves leaves
    exact ⟨retimes.time.trans ht, fun h => retimes.list (hl h), fun m hm => (retimes.other m hm).trans (hother m hm),
      retimes.sound, retimes.notDue⟩

/-! ## Due slots stand at the head of the list -/

theorem insertDeadline_filter {p : SlotNumber → Bool} (slots : Vector Slot 256) {n : SlotNumber} (h : p n = false)
    (l : List SlotNumber) : (insertDeadline slots n l).filter p = l.filter p := by
  induction l with
  | nil => simp [insertDeadline, h]
  | cons m l ih =>
    unfold insertDeadline
    split
    · rw [List.filter_cons_of_neg (by simp [h])]
    · rw [List.filter_cons, List.filter_cons, ih]

/-- A slot before a due one in the list is due (R41, R44). -/
theorem due_of_key_lt {s : State} {n m : SlotNumber} (hm : (s.slots[m].deadline?).isSome = true)
    (h : deadlineKey s.slots m < deadlineKey s.slots n) (hn : s.isDue n = true) : s.isDue m = true := by
  obtain ⟨d, hd, hle⟩ := (State.isDue_iff n s).1 hn
  obtain ⟨e, he⟩ := Option.isSome_iff_exists.1 hm
  refine (State.isDue_iff m s).2 ⟨e, he, ?_⟩
  simp only [deadlineKey, hd, he, Option.getD_some] at h
  rw [BitVec.le_def] at hle ⊢
  have := n.isLt
  omega

/-- The first due slot is the head of the list. -/
theorem head_of_dueSlots {s : State} (hs : DeadlineListSound s) {n : SlotNumber} {rest : List SlotNumber}
    (h : s.dueSlots = n :: rest) :
    ∃ tail, s.deadlineList = n :: tail ∧ s.isDue n = true ∧ tail.filter (fun m => s.isDue m) = rest := by
  obtain ⟨order, members⟩ := hs
  have hn : n ∈ s.deadlineList ∧ s.isDue n = true := List.mem_filter.1 (h ▸ List.mem_cons_self : n ∈ s.dueSlots)
  unfold State.dueSlots at h
  cases hl : s.deadlineList with
  | nil => rw [hl] at h; exact nomatch h
  | cons m tail =>
    have hmdue : s.isDue m = true := by
      rw [hl] at hn order members
      rcases List.mem_cons.1 hn.1 with rfl | htail
      · exact hn.2
      · exact due_of_key_lt ((members m).1 List.mem_cons_self) ((List.pairwise_cons.1 order).1 n htail) hn.2
    rw [hl, List.filter_cons_of_pos (p := fun m => s.isDue m) hmdue] at h
    obtain ⟨rfl, hrest⟩ := List.cons.inj h
    exact ⟨tail, rfl, hmdue, hrest⟩

theorem expiresNext_of_dueSlots {s : State} (hs : DeadlineListSound s) {n : SlotNumber} {rest : List SlotNumber}
    (h : s.dueSlots = n :: rest) : s.expiresNext n = true := by
  obtain ⟨tail, hlist, hdue, -⟩ := head_of_dueSlots hs h
  simp [State.expiresNext, hlist, hdue]

/-- The taking of the first due slot leaves the others due, in their order. -/
theorem takeExpiry_dueSlots {s : State} (hs : Ready s) {n : SlotNumber} {rest : List SlotNumber}
    (h : s.dueSlots = n :: rest) : (takeExpiry n s).dueSlots = rest := by
  obtain ⟨tail, hlist, hdue, hrest⟩ := head_of_dueSlots hs.list h
  obtain ⟨after, leaves⟩ := takeExpiry_leaves_of_due hs.slots hdue
  have retimes := retimes_of_leaves leaves
  have hnotin : n ∉ tail := (List.nodup_cons.1 (hlist ▸ deadlineList_nodup hs.list)).1
  have others : tail.filter (fun m => (takeExpiry n s).isDue m) = rest := by
    rw [← hrest]
    exact List.filter_congr fun m hm => retimes.isDue fun e => hnotin (e ▸ hm)
  unfold State.dueSlots
  rw [leaves.list]
  show (relist _ n s.deadlineList).filter _ = rest
  unfold relist
  rw [hlist, List.erase_cons_head]
  split
  · rw [insertDeadline_filter _ retimes.notDue, others]
  · exact others

theorem takeDue_of_none {s : State} (h : s.dueSlots = []) : takeDue s = s := by
  unfold takeDue; rw [h]; rfl

theorem takeDue_cons {s : State} (hs : Ready s) {n : SlotNumber} {rest : List SlotNumber} (h : s.dueSlots = n :: rest) :
    takeDue s = takeDue (takeExpiry n s) := by
  unfold takeDue
  rw [takeExpiry_dueSlots hs h, h]
  rfl

theorem noneDue_of_dueSlots {s : State} (hs : DeadlineListSound s) (h : s.dueSlots = []) : NoneDue s := by
  intro n
  rw [Bool.eq_false_iff]
  intro hn
  obtain ⟨d, hd, -⟩ := (State.isDue_iff n s).1 hn
  have hmem : n ∈ s.dueSlots := List.mem_filter.2 ⟨(hs.2 n).2 (by rw [hd]; rfl), hn⟩
  rw [h] at hmem
  exact nomatch hmem

/-- After every due slot has been taken, none is due. -/
theorem takeDue_settles {s : State} (hs : Ready s) : Ready (takeDue s) ∧ NoneDue (takeDue s) := by
  generalize hl : s.dueSlots = l
  induction l generalizing s with
  | nil => rw [takeDue_of_none hl]; exact ⟨hs, noneDue_of_dueSlots hs.list hl⟩
  | cons n rest ih =>
    obtain ⟨-, -, hdue, -⟩ := head_of_dueSlots hs.list hl
    rw [takeDue_cons hs hl]
    exact ih ((takeExpiry_retimes hs.slots hdue).ready hs) (takeExpiry_dueSlots hs hl)

/-! ## Offers of an edge -/

/-- An offer leaves the state as it is, or sets its slot anew (R46, R82, R84, R85). -/
theorem offerEdge_retimes (line : InputNumber) (e : EdgeUnderWay) (n : SlotNumber) {s : State} (hs : SlotsSound s) :
    offerEdge line e n s = s ∨ Retimes n s (offerEdge line e n s) := by
  rcases offerEdge_puts line e n s with h | ⟨t, after, put, h, -, -, sound⟩
  · exact .inl h
  · rw [h]
    refine .inr (takeAtInsertion_retimes put.time put.deadlineListSound (fun m hm => put.arming_ne hm) fun a ha => ?_)
    exact sound ((slotsSound_iff s).1 hs).2 a (put.arming_self.symm.trans ha)

/-- What records of the line, its re-evaluation and offers keep, an EDGE of the line keeps. -/
theorem takeEdge_keeps {P : State → Prop} {n : InputNumber} (hput : ∀ l s, P s → P (s.putInput n l))
    (hreevaluate : ∀ s, P s → P (s.reevaluate n)) (hoffer : ∀ e m s, P s → P (offerEdge n e m s)) (share : EdgeShare)
    {s : State} (hs : P s) : P (takeEdge n share s) := by
  have begin {s : State} (hs : P s) : P (beginEdge n s) := by
    rcases beginEdge_cases n s with ⟨e, -, h⟩ | ⟨-, -, h⟩ | ⟨level, -, -, h⟩ <;> rw [h]
    · exact hs
    · exact hs
    · exact hput _ _ hs
  have offers (bound : Fin 257) {s : State} (hs : P s) : P (offersOfEdge n bound s) := by
    unfold offersOfEdge
    split
    · exact hs
    · exact List.foldlRecOn _ _ (hput _ _ hs) fun t ht m _ => hoffer _ m t ht
  have status {s : State} (hs : P s) : P (statusOfEdge n s) := by
    rcases statusOfEdge_cases n s with ⟨h, -⟩ | ⟨e, -, -, h⟩ <;> rw [h]
    · exact hs
    · exact hreevaluate _ (hput _ _ hs)
  cases share with
  | slotsFirst => exact status (offers _ (begin hs))
  | statusFirst => exact offers _ (status (begin hs))
  | offersBelow bound => exact offers bound (begin hs)
  | status => exact status (begin hs)

theorem putInput_sameSlots (n : InputNumber) (l : InputLine) (s : State) : SameSlots s (s.putInput n l) :=
  withInputs_sameSlots s _

/-- What changes off the slots and retimings keep, an edge keeps. -/
theorem takeEdge_keeps_slots {P : State → Prop} (hP : ∀ s, P s → Ready s)
    (hsame : ∀ s t, SameSlots s t → t.time.now = s.time.now → P s → P t) (hretimes : ∀ n s t, Retimes n s t → P s → P t)
    (n : InputNumber) (share : EdgeShare) {s : State} (hs : P s) : P (takeEdge n share s) := by
  refine takeEdge_keeps (fun l s => hsame _ _ (putInput_sameSlots n l s) rfl)
    (fun s => hsame _ _ (reevaluate_sameSlots n s) (by rw [(reevaluate_still n s).time])) (fun e m s hs => ?_) share hs
  rcases offerEdge_retimes n e m (hP s hs).slots with h | h
  · rw [h]; exact hs
  · exact hretimes m _ _ h hs

theorem takeEdge_ahead (n : InputNumber) (share : EdgeShare) {s : State} (hs : Ready s ∧ Ahead s) :
    Ready (takeEdge n share s) ∧ Ahead (takeEdge n share s) :=
  takeEdge_keeps_slots (P := fun s => Ready s ∧ Ahead s) (fun _ h => h.1)
    (fun _ _ h ht hs => ⟨hs.1.congr h, hs.2.congr h ht⟩) (fun _ _ _ h hs => ⟨h.ready hs.1, h.ahead hs.2⟩) n share hs

theorem takeEdge_noneDue (n : InputNumber) (share : EdgeShare) {s : State} (hs : Ready s ∧ NoneDue s) :
    Ready (takeEdge n share s) ∧ NoneDue (takeEdge n share s) :=
  takeEdge_keeps_slots (P := fun s => Ready s ∧ NoneDue s) (fun _ h => h.1)
    (fun _ _ h ht hs => ⟨hs.1.congr h, hs.2.congr h ht⟩) (fun _ _ _ h hs => ⟨h.ready hs.1, h.noneDue hs.2⟩) n share hs

/-! ## The work a tick finishes -/

theorem finishEdges_noneDue {s : State} (hs : Ready s ∧ NoneDue s) : Ready (finishEdges s) ∧ NoneDue (finishEdges s) :=
  List.foldlRecOn (motive := fun s => Ready s ∧ NoneDue s) _ (fun t n => takeEdge n .slotsFirst t) hs
    fun _ ht n _ => takeEdge_noneDue n .slotsFirst ht

/-- The work a tick finishes leaves no slot due. -/
theorem finishTick_noneDue {s : State} (hs : Ready s) : Ready (finishTick s) ∧ NoneDue (finishTick s) := by
  obtain ⟨ready, none⟩ := takeDue_settles hs
  have ended := withLines_sameSlots (takeDue s) ((takeDue s).lines.map (OutputLine.endPulse (takeDue s).time.now))
  obtain ⟨ready, none⟩ := finishEdges_noneDue (s := takePulseEnds (takeDue s)) ⟨ready.congr ended, none.congr ended rfl⟩
  have expired := moderationExpiry_timers (finishEdges (takePulseEnds (takeDue s)))
  exact ⟨ready.congr expired.sameSlots, none.congr expired.sameSlots (congrArg TimeBase.now expired.time)⟩

end Sys2Proof.Proofs
end

section
/-! # Requests and the deadlines they place

What an ARM, a STAGE, a HOLD, a RELEASE, a RENEW and a time step leave is sound, and no deadline is placed before device
time (R18, R24, R34, R36, R38, R44). -/

namespace Sys2Proof.Proofs
open Sys2Proof.Machine Sys2Proof.Claims

/-- Due slots can be taken, and no deadline lies before device time. -/
structure Timed (s : State) : Prop extends Ready s where
  ahead : Ahead s

theorem Timed.congr {s t : State} (hs : Timed s) (h : SameSlots s t) (ht : t.time.now = s.time.now) : Timed t :=
  { hs.toReady.congr h with ahead := hs.ahead.congr h ht }

theorem Timed.retimes {n : SlotNumber} {s t : State} (hs : Timed s) (h : Retimes n s t) : Timed t :=
  { h.ready hs.toReady with ahead := h.ahead hs.ahead }

theorem timed_of_noneDue {s : State} (h : Ready s ∧ NoneDue s) : Timed s := { h.1 with ahead := h.2.ahead }

/-- An arming that may be set at device time `now`. -/
def Placeable (now : Time) (a : Arming) : Prop := ArmingSound a ∧ ∀ d, a.deadline? = some d → now ≤ d

theorem putArming_timed {s : State} (hs : Timed s) (n : SlotNumber) {a : Option Arming}
    (ha : ∀ b, a = some b → Placeable s.time.now b) : Timed (s.putArming n a) := by
  refine { list := hs.list.putArming n a, slots := fun m b hb => ?_, ahead := fun m d hd => ?_ }
  · by_cases hm : m = n
    · subst hm; rw [State.putArming_slot] at hb; exact (ha b hb).1
    · rw [State.putArming_slot_ne a s hm] at hb; exact hs.slots m b hb
  · rw [State.putArming_time]
    by_cases hm : m = n
    · subst hm
      rw [State.putArming_slot] at hd
      obtain ⟨b, hb, hd⟩ := Option.bind_eq_some_iff.1 hd
      exact (ha b hb).2 d hd
    · rw [State.putArming_slot_ne a s hm] at hd; exact hs.ahead m d hd

/-- What stands in a slot may be set again. -/
theorem Timed.placeable {s : State} (hs : Timed s) {n : SlotNumber} {a : Arming} (ha : s.slots[n].arming = some a) :
    Placeable s.time.now a :=
  ⟨hs.slots n a ha, fun d hd => hs.ahead n d (Option.bind_eq_some_iff.2 ⟨a, ha, hd⟩)⟩

theorem later?_le {t d : Time} {k : Nat} (h : later? t k = some d) : t ≤ d := by
  rw [BitVec.le_def, later?_spec h]
  exact Nat.le_add_right _ _

/-! ## What validation says of intervals -/

theorem actionKind?_positive {r : Request} {k : ActionKind} (h : actionKind? r = some k) : k.positive := by
  have width {w : BitVec 32} (hw : 1 ≤ w.toNat ∧ w.toNat < 2 ^ 24) : w ≠ 0 :=
    fun h0 => by rw [h0] at hw; exact absurd hw.1 (by decide)
  unfold actionKind? at h
  dsimp only at h
  split at h
  · obtain rfl := Option.some.inj h; exact trivial
  · obtain rfl := Option.some.inj h; exact trivial
  · obtain rfl := Option.some.inj h; exact trivial
  · split at h
    · rename_i hw; obtain rfl := Option.some.inj h; exact width (of_decide_eq_true hw)
    · exact nomatch h
  · split at h
    · rename_i hw; obtain rfl := Option.some.inj h; exact width (of_decide_eq_true hw)
    · exact nomatch h
  · exact nomatch h

theorem armAction_positive {r : Request} {x : Action} (h : armAction r = some x) : x.kind.positive := by
  unfold armAction at h
  split at h
  · obtain ⟨l, -, hl⟩ := Option.bind_eq_some_iff.1 h
    obtain ⟨k, hk, rfl⟩ := Option.map_eq_some_iff.1 hl
    exact actionKind?_positive hk
  · exact nomatch h

/-- The refusals of step 4 that a valid request has passed. -/
theorem step4_of_valid {k : RequestKind} {r : Request} {s : State} (h : refusal? k r s = none) :
    step4Fails k r = false := by
  by_contra hfails
  rw [Bool.not_eq_false] at hfails
  unfold refusal? at h
  rw [if_pos hfails] at h
  split at h
  · exact nomatch h
  · split at h <;> exact nomatch h

theorem armFields_of_valid {r : Request} {s : State} (h : refusal? .arm r s = none) : armFieldFails r = false := by
  have hstep := step4_of_valid h
  rw [step4Fails, Bool.or_eq_false_iff] at hstep
  exact hstep.2

/-! ## ARM -/

/-- The intervals of the mode part an accepted ARM sets up are positive (R24, R141). -/
theorem modePart?_positive {r : Request} {now : Time} {part : ModePart} (hv : armFieldFails r = false)
    (h : modePart? r now = some part) {a : Arming} (ha : a.action = armAction r) (hpart : a.part = part) : a.positive := by
  refine ⟨fun x hx => armAction_positive (ha ▸ hx), ?_⟩
  rw [hpart]
  unfold armFieldFails at hv
  rw [Bool.or_eq_false_iff] at hv
  obtain ⟨-, hmode⟩ := hv
  unfold modePart? at h
  split at h
  · exact nomatch h
  · obtain rfl := Option.some.inj h
    trivial
  · rename_i hm
    rw [hm, Bool.or_eq_false_iff] at hmode
    obtain ⟨p, -, rfl⟩ := Option.map_eq_some_iff.1 h
    exact ⟨by simpa using hmode.1, nofun⟩
  · rename_i hm
    rw [hm, Bool.or_eq_false_iff] at hmode
    obtain rfl := Option.some.inj h
    exact ⟨by simpa using hmode.1, by simpa using hmode.2⟩
  · rename_i hm
    rw [hm, Bool.or_eq_false_iff, Bool.or_eq_false_iff] at hmode
    obtain ⟨⟨-, htimeout⟩, hdelay⟩ := hmode
    obtain ⟨n, -, h⟩ := Option.bind_eq_some_iff.1 h
    obtain ⟨e, -, rfl⟩ := Option.map_eq_some_iff.1 h
    constructor
    · dsimp only; split <;> simp_all
    · dsimp only; split <;> simp_all

/-- A mode part waits for edges exactly in mode WAIT_EDGE. -/
theorem modePart?_waitEdge {r : Request} {now : Time} {part : ModePart} (h : modePart? r now = some part) :
    Mode.ofCode? r.mode = some .waitEdge ↔ ∃ p, part = .waitEdge p := by
  unfold modePart? at h
  split at h
  · exact nomatch h
  · rename_i hm; obtain rfl := Option.some.inj h; simp [hm]
  · rename_i hm
    obtain ⟨p, -, rfl⟩ := Option.map_eq_some_iff.1 h
    simp [hm]
  · rename_i hm; obtain rfl := Option.some.inj h; simp [hm]
  · rename_i hm
    obtain ⟨n, -, h⟩ := Option.bind_eq_some_iff.1 h
    obtain ⟨e, -, rfl⟩ := Option.map_eq_some_iff.1 h
    simp [hm]

/-- Every mode but WAIT_EDGE has a first deadline. -/
theorem firstDeadline?_isSome {r : Request} {now : Time} {deadline : Option Time} (h : firstDeadline? r now = some deadline)
    (hm : Mode.ofCode? r.mode ≠ some .waitEdge) : deadline.isSome = true := by
  unfold firstDeadline? at h
  rw [if_neg hm] at h
  split at h
  · obtain rfl := Option.some.inj h; rfl
  · obtain ⟨d, -, rfl⟩ := Option.map_eq_some_iff.1 h; rfl

/-- The first state of an ARM is one its mode allows (R18, R26). -/
theorem firstPhase_fits {part : ModePart} {deadline : Option Time} (h : (∀ p, part ≠ .waitEdge p) → deadline.isSome = true)
    (group : GroupState) (now : Time) {a : Arming} (hpart : a.part = part)
    (hphase : a.phase = firstPhase group part deadline now) : a.phaseFits = true := by
  unfold Arming.phaseFits
  rw [hpart, hphase, firstPhase]
  by_cases hheld : group = .held ∧ part.isGuard = false
  · rw [if_pos hheld]
    cases part with
    | guard g => exact absurd hheld.2 nofun
    | once => simp [heldPhase, h nofun]
    | repeating p => simp [heldPhase, h nofun]
    | waitEdge p => simp [heldPhase]
  · rw [if_neg hheld]
    cases part <;> rfl

theorem armedSlot_sound {r : Request} {part : ModePart} {policy : ReportPolicy} {group : GroupNumber}
    {deadline : Option Time} {n : SlotNumber} {s : State} (hv : armFieldFails r = false)
    (hpart : modePart? r s.time.now = some part) (hdeadline : firstDeadline? r s.time.now = some deadline) {a : Arming}
    (ha : (armedSlot r part policy group deadline n s).arming = some a) : ArmingSound a := by
  obtain rfl := Option.some.inj ha
  refine ⟨modePart?_positive hv hpart rfl rfl, firstPhase_fits (fun hp => ?_) _ _ rfl rfl⟩
  exact firstDeadline?_isSome hdeadline fun hm => (modePart?_waitEdge hpart).1 hm |>.elim hp

theorem acceptArm_retimes {r : Request} {part : ModePart} {policy : ReportPolicy} {group : GroupNumber}
    {deadline : Option Time} {n : SlotNumber} {s : State} (hv : armFieldFails r = false)
    (hpart : modePart? r s.time.now = some part) (hdeadline : firstDeadline? r s.time.now = some deadline) :
    Retimes n s (acceptArm r part policy group deadline n s).1 := by
  refine takeAtInsertion_retimes (t := s.putSlot n (armedSlot r part policy group deadline n s)) rfl
    (fun h => putSlot_deadlineListSound h n _)
    (fun m hm => congrArg Slot.arming (State.putSlot_slot_ne _ s hm)) fun a ha => ?_
  rw [State.putSlot_slot] at ha
  exact armedSlot_sound hv hpart hdeadline ha

theorem takeArm_timed {r : Request} {s : State} (hv : armFieldFails r = false) (hs : Timed s) : Timed (takeArm r s).1 := by
  unfold takeArm
  split
  · rename_i n part policy group _ hpart _ _
    split
    · exact hs
    · split
      · exact hs
      · split
        · exact hs
        · rename_i deadline hdeadline; exact hs.retimes (acceptArm_retimes hv hpart hdeadline)
  · exact hs

/-! ## CANCEL, STAGE and RENEW -/

theorem cancelSlot_arming (n : SlotNumber) (s : State) (m : SlotNumber) :
    (cancelSlot n s).slots[m].arming = (s.putArming n none).slots[m].arming := by
  unfold cancelSlot
  dsimp only
  split <;> exact putSlot_arming n _ s m

theorem cancelSlot_time (n : SlotNumber) (s : State) : (cancelSlot n s).time = s.time := by
  unfold cancelSlot
  dsimp only
  split <;> rfl

theorem cancelSlot_timed (n : SlotNumber) {s : State} (hs : Timed s) : Timed (cancelSlot n s) := by
  have cleared : Timed (s.putArming n none) := putArming_timed hs n fun _ hb => nomatch hb
  refine { list := cancelSlot_deadlineListSound hs.list n, slots := fun m a ha => ?_, ahead := fun m d hd => ?_ }
  · exact cleared.slots m a (cancelSlot_arming n s m ▸ ha)
  · rw [cancelSlot_time]
    exact cleared.ahead m d (Slot.deadline?_congr (cancelSlot_arming n s m) ▸ hd)

theorem takeCancel_timed (r : Request) {s : State} (hs : Timed s) : Timed (takeCancel r s).1 := by
  unfold takeCancel
  split
  · exact hs
  · split
    · exact hs
    · split
      · exact hs
      · exact cancelSlot_timed _ hs

/-- A staged change of a valid STAGE is positive (R34, R141). -/
theorem stagedOf_positive {r : Request} (hv : step4Fails .stage r = false) :
    (stagedOf r).period ≠ some 0 ∧ ∀ x, (stagedOf r).action = some (.replace x) → x.kind.positive := by
  rw [step4Fails, Bool.or_eq_false_iff] at hv
  obtain ⟨-, hperiod⟩ := hv
  constructor
  · intro h0
    unfold stagedOf at h0
    dsimp only at h0
    split at h0
    · rename_i hstage; simp [hstage, Option.some.inj h0] at hperiod
    · exact nomatch h0
  · intro x hx
    unfold stagedOf at hx
    dsimp only at hx
    split at hx
    · split at hx
      · rename_i hact
        rw [StagedAction.replace.inj (Option.some.inj hx)] at hact
        exact armAction_positive hact
      · exact nomatch hx
    · exact nomatch hx

theorem takeStage_timed {r : Request} (hv : step4Fails .stage r = false) {s : State} (hs : Timed s) :
    Timed (takeStage r s).1 := by
  unfold takeStage
  split
  · exact hs
  · rename_i n _
    split
    · exact hs
    · rename_i a ha
      split
      · rename_i p hp
        refine putArming_timed hs n fun b hb => ?_
        obtain rfl := Option.some.inj hb
        obtain ⟨⟨⟨action, intervals⟩, fits⟩, deadline⟩ := hs.placeable ha
        rw [hp] at intervals
        refine ⟨⟨⟨action, intervals.1, fun c hc => ?_⟩, ?_⟩, deadline⟩
        · obtain rfl := Option.some.inj hc
          exact stagedOf_positive hv
        · unfold Arming.phaseFits at fits ⊢
          cases hphase : a.phase <;> simp_all
      · exact hs

theorem escalate_retimes {n : SlotNumber} {a : Arming} {g : GuardPart} {s : State} (ha : a.positive)
    (hg : a.part = .guard g) : Retimes n s (escalate n a g s) := by
  unfold escalate
  split
  · obtain ⟨after, leaves⟩ := guardWarnStep_leaves (n := n) (s := s) false true ha hg
    exact retimes_of_leaves leaves
  · exact retimes_of_leaves (guardFaultStep_leaves n a g _ s)

theorem renewGuard_timed {n : SlotNumber} {a : Arming} {g : GuardPart} {s : State} (hs : Timed s)
    (ha : s.slots[n].arming = some a) (hg : a.part = .guard g) : Timed (renewGuard n a g s).1 := by
  obtain ⟨⟨⟨action, intervals⟩, -⟩, -⟩ := hs.placeable ha
  unfold renewGuard
  split
  · exact hs.retimes (escalate_retimes ⟨action, intervals⟩ hg)
  · split
    · exact hs
    · rename_i d hd
      refine putArming_timed hs n fun b hb => ?_
      obtain rfl := Option.some.inj hb
      rw [hg] at intervals
      refine ⟨⟨⟨action, intervals⟩, rfl⟩, fun e he => ?_⟩
      obtain rfl := Option.some.inj he
      exact later?_le hd

theorem takeRenew_timed (r : Request) {s : State} (hs : Timed s) : Timed (takeRenew r s).1 := by
  unfold takeRenew
  split
  · exact hs
  · split
    · exact hs
    · split
      · exact hs
      · rename_i a ha
        split
        · rename_i g hg; exact renewGuard_timed hs ha hg
        · exact hs

/-! ## HOLD and RELEASE -/

theorem mem_slotsWhere {p : SlotNumber → Bool} {n : SlotNumber} : n ∈ slotsWhere p ↔ p n = true := by
  simp [slotsWhere]

theorem hold_fits {a : Arming} (h : a.phaseFits = true) (hg : a.part.isGuard = false) (now : Time) :
    Arming.phaseFits { a with phase := a.phase.hold now } = true := by
  unfold Arming.phaseFits at h ⊢
  cases hpart : a.part <;> cases hphase : a.phase <;> simp_all [Phase.hold, ModePart.isGuard]

theorem hold_deadline? (a : Arming) (now : Time) : Arming.deadline? { a with phase := a.phase.hold now } = none := by
  unfold Arming.deadline? Phase.hold
  cases a.phase <;> rfl

/-- HOLD suspends no guard, and a suspended slot keeps no deadline (R36). -/
theorem holdSlot_timed {n : SlotNumber} {s : State} (hs : Timed s)
    (hg : ∀ a, s.slots[n].arming = some a → a.part.isGuard = false) : Timed (holdSlot n s) := by
  refine putArming_timed hs n fun b hb => ?_
  obtain ⟨a, ha, rfl⟩ := Option.map_eq_some_iff.1 hb
  obtain ⟨⟨positive, fits⟩, -⟩ := hs.placeable ha
  exact ⟨⟨positive, hold_fits fits (hg a ha) _⟩, fun d hd => nomatch (hold_deadline? a _).symm.trans hd⟩

theorem holdSlot_part {n m : SlotNumber} {s : State} {b : Arming} (hb : (holdSlot n s).slots[m].arming = some b) :
    ∃ a, s.slots[m].arming = some a ∧ b.part = a.part := by
  by_cases hm : m = n
  · subst hm
    rw [holdSlot, State.putArming_slot] at hb
    obtain ⟨a, ha, rfl⟩ := Option.map_eq_some_iff.1 hb
    exact ⟨a, ha, rfl⟩
  · rw [holdSlot, State.putArming_slot_ne _ s hm] at hb
    exact ⟨b, hb, rfl⟩

theorem setGroups_sameSlots (r : Request) (g : GroupState) (s : State) : SameSlots s (setGroups r g s) :=
  withGroups_sameSlots s _

theorem setGroups_time (r : Request) (g : GroupState) (s : State) : (setGroups r g s).time = s.time := by
  rw [setGroups, State.withGroups_time]

theorem setGroups_timed (r : Request) (g : GroupState) {s : State} (hs : Timed s) : Timed (setGroups r g s) :=
  hs.congr (setGroups_sameSlots r g s) (by rw [setGroups_time])

/-- The slots a HOLD suspends are not guards. -/
theorem not_guard_of_slotsToHold {r : Request} {s : State} {n : SlotNumber} (hn : n ∈ s.slotsToHold r) {a : Arming}
    (ha : s.slots[n].arming = some a) : a.part.isGuard = false := by
  rw [State.slotsToHold, mem_slotsWhere, ha] at hn
  simp only [Bool.and_eq_true, Bool.not_eq_true'] at hn
  exact hn.1.2

theorem takeHold_timed (r : Request) {s : State} (hs : Timed s) : Timed (takeHold r s).1 := by
  have held : Timed (takeHold r s).1
      ∧ ∀ m ∈ s.slotsToHold r, ∀ a, (takeHold r s).1.slots[m].arming = some a → a.part.isGuard = false := by
    refine List.foldlRecOn (motive := fun t => Timed t ∧ ∀ m ∈ s.slotsToHold r, ∀ a, t.slots[m].arming = some a →
      a.part.isGuard = false) _ (fun t n => holdSlot n t) ⟨setGroups_timed r .held hs, fun m hm a ha => ?_⟩
      fun t ⟨ht, hguard⟩ n hn => ⟨holdSlot_timed ht (hguard n hn), fun m hm b hb => ?_⟩
    · exact not_guard_of_slotsToHold hm ((setGroups_sameSlots r .held s).arming m ▸ ha)
    · obtain ⟨a, ha, hpart⟩ := holdSlot_part hb
      rw [hpart]
      exact hguard m hm a ha
  exact held.1

/-- The state a slot returns to, by the state it is held from (R38). -/
theorem release?_cases {p q : Phase} {now : Time} (h : p.release? now = some q) :
    (∃ r d, p = .held .armed r ∧ now ≤ d ∧ q = .armed d)
      ∨ (∃ r d, p = .held .waiting (some r) ∧ now ≤ d ∧ q = .waiting (some d))
      ∨ (p = .held .waiting none ∧ q = .waiting none) ∨ q = p := by
  cases p with
  | armed d => exact .inr (.inr (.inr (Option.some.inj h).symm))
  | waiting d => exact .inr (.inr (.inr (Option.some.inj h).symm))
  | held o r =>
    cases o with
    | armed =>
      obtain ⟨d, hd, hq⟩ := Option.map_eq_some_iff.1 h
      exact .inl ⟨r, d, rfl, later?_le hd, hq.symm⟩
    | waiting =>
      cases r with
      | none => exact .inr (.inr (.inl ⟨rfl, (Option.some.inj h).symm⟩))
      | some r =>
        obtain ⟨d, hd, hq⟩ := Option.map_eq_some_iff.1 h
        exact .inr (.inl ⟨r, d, rfl, later?_le hd, hq.symm⟩)

theorem release_fits {a : Arming} (h : a.phaseFits = true) {now : Time} {p : Phase} (hp : a.phase.release? now = some p) :
    Arming.phaseFits { a with phase := p } = true := by
  unfold Arming.phaseFits at h ⊢
  rcases release?_cases hp with ⟨r, d, hphase, -, rfl⟩ | ⟨r, d, hphase, -, rfl⟩ | ⟨hphase, rfl⟩ | rfl
  · cases hpart : a.part <;> simp_all
  · cases hpart : a.part <;> simp_all
  · cases hpart : a.part <;> simp_all
  · exact h

/-- A released slot has its deadline at or after device time (R38). -/
theorem releaseSlot_timed (n : SlotNumber) {s : State} (hs : Timed s) : Timed (releaseSlot n s) := by
  refine putArming_timed hs n fun b hb => ?_
  obtain ⟨a, ha, rfl⟩ := Option.map_eq_some_iff.1 hb
  have placeable := hs.placeable ha
  obtain ⟨⟨positive, fits⟩, deadline⟩ := id placeable
  cases hp : a.phase.release? s.time.now with
  | none => exact placeable
  | some p =>
    refine ⟨⟨positive, release_fits fits hp⟩, fun d hd => ?_⟩
    rcases release?_cases hp with ⟨r, e, -, hle, rfl⟩ | ⟨r, e, -, hle, rfl⟩ | ⟨-, rfl⟩ | rfl
    · exact Option.some.inj hd ▸ hle
    · exact Option.some.inj hd ▸ hle
    · exact nomatch hd
    · exact deadline d hd

theorem releaseSlots_timed (r : Request) (l : List SlotNumber) {s : State} (hs : Timed s) :
    Timed (l.foldl (fun t n => releaseSlot n t) (setGroups r .running s)) :=
  List.foldlRecOn (motive := Timed) _ (fun t n => releaseSlot n t) (setGroups_timed r .running hs)
    fun _ ht n _ => releaseSlot_timed n ht

theorem takeRelease_timed (r : Request) {s : State} (hs : Timed s) : Timed (takeRelease r s).1 := by
  unfold takeRelease
  split
  · exact timed_of_noneDue (takeDue_settles (releaseSlots_timed r _ hs).toReady)
  · exact hs

/-! ## Time steps -/

theorem step_sound {a : Arming} (h : ArmingSound a) (k : Int) : ArmingSound (a.step k) := by
  obtain ⟨⟨action, intervals⟩, fits⟩ := h
  refine ⟨⟨action, ?_⟩, ?_⟩
  · have part : (a.step k).part = a.part.step k := rfl
    rw [part]
    cases hpart : a.part <;> rw [hpart] at intervals <;> exact intervals
  · unfold Arming.phaseFits at fits ⊢
    unfold Arming.step
    cases hpart : a.part <;> cases hphase : a.phase <;> cases a.movesWithStep <;>
      simp_all [ModePart.step, Phase.step]

theorem moveTime_ready (k : Int) {s : State} (hs : Ready s) : Ready (moveTime k s) := by
  refine ⟨moveTime_deadlineListSound k hs.list, fun n b hb => ?_⟩
  rw [moveTime_slot] at hb
  obtain ⟨a, ha, rfl⟩ := Option.map_eq_some_iff.1 hb
  exact step_sound (hs.slots n a ha) k

theorem stepBy_timed (k : Int) {s : State} (hs : Timed s) : Timed (stepBy k s).1 := by
  unfold stepBy
  split
  · exact timed_of_noneDue (takeDue_settles (moveTime_ready k hs.toReady))
  · exact hs

/-! ## Every request -/

theorem putDrive_sameSlots (n : LineNumber) (d : Option Drive) (s : State) : SameSlots s (s.putDrive n d) :=
  withLines_sameSlots s _

theorem putDrive_time (n : LineNumber) (d : Option Drive) (s : State) : (s.putDrive n d).time = s.time := rfl

theorem takeLine_timed (r : Request) {s : State} (hs : Timed s) : Timed (takeLine r s).1 := by
  unfold takeLine
  split
  · exact hs
  · split
    · exact hs
    · split
      · exact hs
      · split
        · exact hs
        · exact hs.congr (putDrive_sameSlots _ _ s) (by rw [putDrive_time])

theorem reevaluate_timed (n : InputNumber) {s : State} (hs : Timed s) : Timed (s.reevaluate n) :=
  hs.congr (reevaluate_sameSlots n s) (by rw [(reevaluate_still n s).time])

theorem statusOfEdge_timed (n : InputNumber) {s : State} (hs : Timed s) : Timed (statusOfEdge n s) := by
  rcases statusOfEdge_cases n s with ⟨h, -⟩ | ⟨e, -, -, h⟩ <;> rw [h]
  · exact hs
  · exact reevaluate_timed n (hs.congr (withInputs_sameSlots s _) rfl)

theorem takeConfigInput_timed (r : Request) {s : State} (hs : Timed s) : Timed (takeConfigInput r s).1 := by
  unfold takeConfigInput
  split
  · rename_i n level _ _
    have settled := reevaluate_timed n ((statusOfEdge_timed n hs).congr (withInputs_sameSlots (statusOfEdge n s)
      ((statusOfEdge n s).inputs.set n ((statusOfEdge n s).inputs[n].configure r.filterLength level))) rfl)
    dsimp only
    unfold State.drawFree
    split
    · exact settled.congr (withFreeCount_sameSlots _ _) rfl
    · exact settled
  · exact hs

theorem owner_timed {k : RequestKind} {r : Request} {s : State} (hv : refusal? k r s = none) (hs : Timed s) :
    Timed (owner k r s).1 := by
  cases k with
  | nop => exact hs
  | fence => exact hs.congr (withWriter_sameSlots s _) rfl
  | arm => exact takeArm_timed (armFields_of_valid hv) hs
  | cancel => exact takeCancel_timed r hs
  | cancelGroup =>
    exact List.foldlRecOn (motive := Timed) _ (fun t n => cancelSlot n t) hs fun _ ht n _ => cancelSlot_timed n ht
  | stage => exact takeStage_timed (step4_of_valid hv) hs
  | renew => exact takeRenew_timed r hs
  | hold => exact takeHold_timed r hs
  | release => exact takeRelease_timed r hs
  | querySlot =>
    show Timed (takeQuerySlot r s).1
    unfold takeQuerySlot
    split <;> exact hs
  | line => exact takeLine_timed r hs
  | configInput => exact takeConfigInput_timed r hs
  | readTime => exact hs
  | stepTime => exact stepBy_timed _ hs
  | setTime =>
    show Timed (takeSetTime r s).1
    unfold takeSetTime
    split
    · exact hs
    · exact stepBy_timed _ hs
  | clearTrip =>
    show Timed (takeClearTrip r s).1
    unfold takeClearTrip
    split
    · exact hs
    · split
      · exact hs
      · exact hs.congr (withTrip_sameSlots s _) rfl
  | forceTrip => exact hs.congr (raise_sameSlots .forced s) (by rw [owner, takeForceTrip, State.raise_time])

end Sys2Proof.Proofs
end

section
/-! # Pulse ends and device time

A pulse end is placed after device time and taken before device time passes it (R13, R62, R64, R66), and with the deadlines
the statement that neither lies behind device time after a step (R44, R62). -/

namespace Sys2Proof.Proofs
open Sys2Proof.Machine Sys2Proof.Claims

/-! ## Pulse ends from a time on -/

/-- No pulse end of the line lies before time `b`. -/
def LineFrom (b : Nat) (l : OutputLine) : Prop :=
  ∀ d e, l.drive = some d → d.pulseEnd = some e → b ≤ e.time.toNat

/-- No pulse end lies before time `b`. -/
def PulsesFrom (b : Nat) (s : State) : Prop := ∀ n : LineNumber, LineFrom b s.lines[n]

theorem LineFrom.map {b : Nat} {l : OutputLine} {f : Drive → Drive}
    (hf : ∀ d e, l.drive = some d → (f d).pulseEnd = some e → b ≤ e.time.toNat) :
    LineFrom b { l with drive := l.drive.map f } := by
  intro d e hd he
  obtain ⟨c, hc, rfl⟩ := Option.map_eq_some_iff.1 hd
  exact hf c e hc he

theorem LineFrom.endPulse {b : Nat} {l : OutputLine} (h : LineFrom b l) (now : Time) : LineFrom b (l.endPulse now) := by
  refine LineFrom.map fun d e hd he => ?_
  unfold Drive.endPulse at he
  split at he
  · exact h d e hd he
  · split at he
    · exact nomatch he
    · exact h d e hd he

/-- Once the due pulse ends are taken, those left lie after device time. -/
theorem endPulse_later (now : Time) (l : OutputLine) : LineFrom (now.toNat + 1) (l.endPulse now) := by
  refine LineFrom.map fun d e _ he => ?_
  unfold Drive.endPulse at he
  split at he
  · rename_i hnone; rw [hnone] at he; exact nomatch he
  · rename_i e' he'
    split at he
    · exact nomatch he
    · rename_i hlater
      obtain rfl := Option.some.inj (he'.symm.trans he)
      rw [BitVec.le_def] at hlater
      omega

theorem LineFrom.forceSafe {b : Nat} {l : OutputLine} (h : LineFrom b l) : LineFrom b l.forceSafe := by
  unfold OutputLine.forceSafe
  split
  · exact LineFrom.map fun _ _ _ he => nomatch he
  · exact h

theorem LineFrom.load {b : Nat} {l : OutputLine} (h : LineFrom b l) (c : ConfigBlock) (present tripped : Bool)
    (n : LineNumber) : LineFrom b (l.load c present tripped n) := by
  intro d e hd he
  simp only [OutputLine.load] at hd
  split at hd
  · obtain rfl := Option.some.inj hd
    unfold loadDrive at he
    split at he
    · rename_i x hx
      split at he
      · exact h x e hx he
      · exact nomatch he
    · exact nomatch he
  · exact nomatch hd

theorem lineFrom_controllerReset (b : Nat) (l : OutputLine) : LineFrom b l.controllerReset :=
  LineFrom.map fun _ _ _ he => nomatch he

/-! ## Actions -/

/-- A pulse of the action ends at time `b` or later when it is performed at `now`. -/
def PlacesFrom (b : Nat) (now : Time) (kind : ActionKind) : Prop :=
  ∀ d e, (Drive.apply kind now d).pulseEnd = some e → b ≤ e.time.toNat

theorem pulseEndAfter_time {now : Time} {width : BitVec 32} {level : Bool} {e : PulseEnd}
    (h : pulseEndAfter now width level = some e) : e.time.toNat = now.toNat + width.toNat := by
  obtain ⟨t, ht, rfl⟩ := Option.map_eq_some_iff.1 h
  exact later?_spec ht

/-- No pulse ends before device time. -/
theorem placesFrom_now (now : Time) (kind : ActionKind) : PlacesFrom now.toNat now kind := by
  intro d e he
  cases kind with
  | pulseHigh width => rw [pulseEndAfter_time he]; exact Nat.le_add_right _ _
  | pulseLow width => rw [pulseEndAfter_time he]; exact Nat.le_add_right _ _
  | _ => exact nomatch he

/-- A pulse of at least one tick ends after device time (R64). -/
theorem placesFrom_later {kind : ActionKind} (h : kind.positive) (now : Time) : PlacesFrom (now.toNat + 1) now kind := by
  have width {w : BitVec 32} (hw : w ≠ 0) : 1 ≤ w.toNat := Nat.pos_of_ne_zero fun e => hw (BitVec.eq_of_toNat_eq e)
  intro d e he
  cases kind with
  | pulseHigh w => rw [pulseEndAfter_time he]; exact Nat.add_le_add_left (width h) _
  | pulseLow w => rw [pulseEndAfter_time he]; exact Nat.add_le_add_left (width h) _
  | _ => exact nomatch he

/-- An action changes the drive of its line at most, as its kind says (R51, R64). -/
theorem performAction_line (x : Option Action) (s : State) (m : LineNumber) :
    (s.performAction x).lines[m] = s.lines[m]
      ∨ ∃ a, x = some a ∧ (s.performAction x).lines[m]
        = { s.lines[m] with drive := s.lines[m].drive.map (Drive.apply a.kind s.time.now) } := by
  unfold State.performAction
  split
  · exact .inl rfl
  · rename_i a
    split
    · by_cases hm : m = a.line
      · subst hm; exact .inr ⟨a, rfl, putDrive_line _ _ s⟩
      · exact .inl (putDrive_line_ne _ s hm)
    · exact .inl rfl

theorem performAction_pulses {b : Nat} {x : Option Action} {s : State} (hs : PulsesFrom b s)
    (hx : ∀ a, x = some a → PlacesFrom b s.time.now a.kind) : PulsesFrom b (s.performAction x) := by
  intro m
  rcases performAction_line x s m with h | ⟨a, ha, h⟩ <;> rw [h]
  · exact hs m
  · exact LineFrom.map fun d e _ he => hx a ha d e he

/-! ## Changes that keep pulse ends from a time on -/

theorem PulsesFrom.congr {b : Nat} {s t : State} (hs : PulsesFrom b s) (h : t.lines = s.lines) : PulsesFrom b t := by
  unfold PulsesFrom
  rw [h]
  exact hs

theorem raise_pulses {b : Nat} {s : State} (hs : PulsesFrom b s) (r : Raise) : PulsesFrom b (s.raise r) := by
  intro m
  rw [raise_lines]
  split
  · simp only [Fin.getElem_fin, Vector.getElem_map]
    exact (hs m).forceSafe
  · exact hs m

theorem takePulseEnds_pulses {b : Nat} {s : State} (hs : PulsesFrom b s) : PulsesFrom b (takePulseEnds s) := fun m => by
  rw [takePulseEnds_line]; exact (hs m).endPulse _

theorem takePulseEnd_pulses {b : Nat} {s : State} (hs : PulsesFrom b s) (n : LineNumber) :
    PulsesFrom b (takePulseEnd n s) := fun m => by
  rw [takePulseEnd_line]
  split
  · exact (hs n).endPulse _
  · exact hs m

theorem putInput_pulses {b : Nat} {s : State} (hs : PulsesFrom b s) (n : InputNumber) (l : InputLine) :
    PulsesFrom b (s.putInput n l) := hs

theorem reevaluate_pulses {b : Nat} {s : State} (hs : PulsesFrom b s) (n : InputNumber) :
    PulsesFrom b (s.reevaluate n) := by
  rcases reevaluate_cases n s with ⟨-, h⟩ | ⟨-, -, h⟩ | ⟨-, -, h⟩ <;> rw [h]
  · exact hs
  · exact raise_pulses (putInput_pulses hs n _) _
  · exact putInput_pulses hs n { s.inputs[n] with active := false }

/-- The elementary changes place no pulse end before device time. -/
theorem Act.pulses {s t : State} (h : Act s t) (hs : PulsesFrom s.time.now.toNat s) : PulsesFrom t.time.now.toNat t := by
  rw [h.still.time]
  cases h with
  | action x => exact performAction_pulses hs fun a _ => placesFrom_now _ _
  | pulseEnd n => exact takePulseEnd_pulses hs n
  | pulseEnds => exact takePulseEnds_pulses hs
  | arming n a => exact hs.congr (State.putArming_lines n a s)
  | event src o makesPending => exact hs.congr (State.recordEvent_lines src o makesPending s)
  | raise r => exact raise_pulses hs r
  | accept n => exact hs.congr (beginEdge_lines n s)
  | reevaluate n => exact reevaluate_pulses hs n
  | _ => exact hs

theorem moveTime_time (k : Int) (s : State) : (moveTime k s).time = s.time.step k := by
  simp [moveTime, takePulseEnds]

theorem RequestAct.pulses {k : RequestKind} {s t : State} (h : RequestAct k s t) (hs : PulsesFrom s.time.now.toNat s) :
    PulsesFrom t.time.now.toNat t := by
  cases h with
  | act h => exact h.pulses hs
  | groups => rw [setGroups_time]; exact hs.congr (by rw [setGroups, State.withGroups_lines])
  | cancel n => rw [cancelSlot_time]; exact hs.congr (cancelSlot_lines n s)
  | move d =>
    intro m
    rw [moveTime_time, moveTime_line]
    exact fun x e hx he => Nat.le_of_succ_le (endPulse_later _ _ x e hx he)
  | _ => exact hs

/-! ## Pulse ends after device time -/

/-- What an expiry keeps of the lines, it keeps for its action (R47, R50). -/
theorem takeExpiry_pulses {b : Nat} {n : SlotNumber} {s : State} (hs : PulsesFrom b s)
    (hx : ∀ a, s.slots[n].arming = some a → PulsesFrom b (s.performAction a.action)) : PulsesFrom b (takeExpiry n s) := by
  have put {u : State} (hu : PulsesFrom b u) (after : Option Arming) (o : Occurrence) (makesPending : Bool) :
      PulsesFrom b ((u.putArming n after).recordEvent (.slot n) o makesPending) :=
    hu.congr (by rw [State.recordEvent_lines, State.putArming_lines])
  have fault (a : Arming) (ha : s.slots[n].arming = some a) (g : GuardPart) (f : ReportFlags) :
      PulsesFrom b (guardFaultStep n a g f s) := by
    unfold guardFaultStep
    dsimp only
    split
    · exact raise_pulses (put (hx a ha) _ _ _) _
    · exact put (hx a ha) _ _ _
  unfold takeExpiry
  split
  · exact hs
  · rename_i a ha
    split
    · exact hs
    · exact put (hx a ha) _ _ _
    · unfold repeatExpiry
      split
      · exact put (hx a ha) _ _ _
      · exact hs
    · unfold guardWarnExpiry
      split
      · unfold guardWarnStep
        split
        · exact put hs _ _ _
        · exact fault a ha _ _
      · exact hs
    · unfold guardFaultExpiry
      split
      · exact fault a ha _ _
      · exact hs
    · unfold afterEdgeExpiry
      split
      · exact put (hx a ha) _ _ _
      · exact hs
    · exact put hs _ _ _

/-- Every pulse end lies after device time. -/
def PulsesLater (s : State) : Prop := PulsesFrom (s.time.now.toNat + 1) s

theorem performAction_later {x : Option Action} {s : State} (hs : PulsesLater s)
    (hx : ∀ a, x = some a → a.kind.positive) : PulsesLater (s.performAction x) := by
  unfold PulsesLater
  rw [State.performAction_time]
  exact performAction_pulses hs fun a ha => placesFrom_later (hx a ha) _

theorem takeAtInsertion_later {n : SlotNumber} {s : State} (hs : PulsesLater s)
    (hx : ∀ a, s.slots[n].arming = some a → ∀ x, a.action = some x → x.kind.positive) :
    PulsesLater (takeAtInsertion n s) := by
  unfold takeAtInsertion
  split
  · unfold PulsesLater
    rw [(takeExpiry_acts n s).still.time]
    refine takeExpiry_pulses hs fun a ha => ?_
    have performed := performAction_later (x := a.action) hs (hx a ha)
    unfold PulsesLater at performed
    rwa [State.performAction_time] at performed
  · exact hs

/-- An offer places no pulse end at device time (R64, R84). -/
theorem offerEdge_later (line : InputNumber) (e : EdgeUnderWay) (n : SlotNumber) {s : State} (hslots : SlotsSound s)
    (hs : PulsesLater s) : PulsesLater (offerEdge line e n s) := by
  rcases offerEdge_cases line e n s with ⟨-, h⟩ | ⟨a, p, ha, -, ⟨-, h⟩ | ⟨d, -, h⟩⟩ <;> rw [h]
  · exact hs
  all_goals
    obtain ⟨⟨action, -⟩, -⟩ := hslots n a ha
  · have captured : Puts n s (captureEdge n a p e.time s) _ := puts_event n a.action _ s _ _
    refine takeAtInsertion_later ?_ fun b hb x hx => action x ?_
    · have performed := performAction_later hs action
      unfold PulsesLater at performed ⊢
      rw [captured.time]
      rw [State.performAction_time] at performed
      exact performed.congr (by simp [captureEdge, State.recordCapture])
    · obtain ⟨limit, -, hb⟩ := Option.bind_eq_some_iff.1 (captured.arming_self.symm.trans hb)
      obtain ⟨t, -, rfl⟩ := Option.map_eq_some_iff.1 hb
      exact hx
  · rcases startDelay_cases n a p d e.time s with ⟨t, -, hd⟩ | hd <;> rw [hd]
    · refine takeAtInsertion_later hs fun b hb x hx => action x ?_
      rw [State.putArming_slot] at hb
      obtain rfl := Option.some.inj hb
      exact hx
    · have ended : Puts n s ((s.putArming n none).recordCapture n a e.time { final := true }) none :=
        puts_event n none none s _ _
      refine takeAtInsertion_later ?_ fun b hb => nomatch ended.arming_self.symm.trans hb
      unfold PulsesLater
      rw [ended.time]
      exact PulsesFrom.congr (s := s) hs (by simp [State.recordCapture])

theorem takeEdge_later (n : InputNumber) (share : EdgeShare) {s : State} (hs : Ready s ∧ PulsesLater s) :
    Ready (takeEdge n share s) ∧ PulsesLater (takeEdge n share s) := by
  refine takeEdge_keeps (P := fun s => Ready s ∧ PulsesLater s) (fun l s hs => ?_) (fun s hs => ?_) (fun e m s hs => ?_)
    share hs
  · exact ⟨hs.1.congr (putInput_sameSlots n l s), hs.2⟩
  · refine ⟨hs.1.congr (reevaluate_sameSlots n s), ?_⟩
    unfold PulsesLater
    rw [(reevaluate_still n s).time]
    exact reevaluate_pulses hs.2 n
  · refine ⟨?_, offerEdge_later n e m hs.1.slots hs.2⟩
    rcases offerEdge_retimes n e m hs.1.slots with h | h
    · rw [h]; exact hs.1
    · exact h.ready hs.1

/-- The work a tick finishes leaves every pulse end after device time. -/
theorem finishTick_later {s : State} (hs : Ready s) : PulsesLater (finishTick s) := by
  have due := takeDue_settles hs
  have ended : Ready (takePulseEnds (takeDue s)) ∧ PulsesLater (takePulseEnds (takeDue s)) :=
    ⟨due.1.congr (withLines_sameSlots _ _), fun m => by rw [takePulseEnds_line]; exact endPulse_later _ _⟩
  have edges : Ready (finishEdges (takePulseEnds (takeDue s))) ∧ PulsesLater (finishEdges (takePulseEnds (takeDue s))) :=
    List.foldlRecOn (motive := fun s => Ready s ∧ PulsesLater s) _ (fun t n => takeEdge n .slotsFirst t) ended
      fun _ ht n _ => takeEdge_later n .slotsFirst ht
  have expired := moderationExpiry_timers (finishEdges (takePulseEnds (takeDue s)))
  unfold PulsesLater
  rw [finishTick, expired.time]
  exact edges.2.congr expired.lines

/-! ## The tick -/

theorem tick_now_le (x : TimeBase) : x.tick.now.toNat ≤ x.now.toNat + 1 := by
  have step : (x.now + 1).toNat ≤ x.now.toNat + 1 := by
    rw [BitVec.toNat_add]; exact Nat.mod_le _ _
  rw [tick_now]
  unfold TimeBase.advance
  split
  · exact Nat.le_succ _
  · exact Nat.le_succ _
  · split
    · exact Nat.le_succ _
    · split <;> exact step

theorem beginTick_pulses (pins : BitVec 8) {s : State} (hs : PulsesLater s) :
    PulsesFrom (beginTick pins s).time.now.toNat (beginTick pins s) := by
  intro m d e hd he
  rw [beginTick_lines] at hd
  rw [beginTick_time]
  exact (tick_now_le _).trans (hs m d e hd he)

theorem beginTick_timed (pins : BitVec 8) {s : State} (hs : Ready s ∧ NoneDue s) : Timed (beginTick pins s) := by
  have same := beginTick_sameSlots pins s
  refine { hs.1.congr same with ahead := fun n d hd => ?_ }
  have later := lt_of_not_due (hs.2 n) (Slot.deadline?_congr (same.arming n) ▸ hd)
  have ticked := tick_now_le s.time
  rw [beginTick_time, BitVec.le_def]
  rw [BitVec.lt_def] at later
  omega

/-! ## Every move -/

theorem enterFaulted_timed (cause : FaultCause) {s : State} (hs : Timed s) : Timed (s.enterFaulted cause) := by
  obtain ⟨u, hu, h | h⟩ := enterFaulted_cases cause s <;> rw [h]
  · exact hs.congr hu.sameSlots (by rw [hu.time])
  · exact (hs.congr hu.sameSlots (by rw [hu.time])).congr (raise_sameSlots _ u) (by rw [State.raise_time])

theorem timed_of_idle {s : State} (hl : s.deadlineList = []) (h : ∀ n : SlotNumber, s.slots[n].arming = none) :
    Timed s where
  list := deadlineListSound_of_idle hl h
  slots n a ha := nomatch (h n).symm.trans ha
  ahead n d hd := by simp [Slot.deadline?, h n, -Fin.getElem_fin] at hd

theorem expiry_timed {n : SlotNumber} {s : State} (hs : Timed s) (h : s.expiresNext n = true) : Timed (takeExpiry n s) :=
  hs.retimes (takeExpiry_retimes hs.slots ((State.isDue_iff n s).2 ((State.expiresNext_iff n s).1 h).2))

theorem Move.timed {c : Instr} {s t : State} (h : Move c s t) (hs : Timed s) : Timed t := by
  have kept {u v : State} (h : TimersKept u v) (hu : Timed u) : Timed v := hu.congr h.sameSlots (by rw [h.time])
  cases h with
  | stay => exact hs
  | expiry n h => exact expiry_timed hs h
  | edge n share =>
    have edge := takeEdge_ahead n share ⟨hs.toReady, hs.ahead⟩
    exact { edge.1 with ahead := edge.2 }
  | pulseEnd n => exact hs.congr (withLines_sameSlots s _) rfl
  | moderation => exact kept (moderationExpiry_timers s) hs
  | tick pins => exact beginTick_timed pins (finishTick_noneDue hs.toReady)
  | powerOn => exact timed_of_idle rfl fun n => by simp [State.reset, Slot.reset]
  | reset => exact timed_of_idle rfl fun n => by rw [controllerReset_slot]; rfl
  | pause => exact kept ((withControl_timers s _).trans (settlePause_timers _)) hs
  | readFails cause => exact enterFaulted_timed cause (kept (withControl_timers s _) hs)
  | readHolds => exact kept ((withControl_timers s _).trans (withControl_timers _ _)) hs
  | apply b => exact hs.congr (applyBlock_sameSlots b s) (by rw [applyBlock_time]; rfl)
  | withdrawn => exact kept ((withFetch_timers s _).trans (settlePause_timers _)) hs
  | refused => exact kept ((taken_timers s).trans (withHeld_timers _ _)) hs
  | request k r _ _ hv => exact kept (withHeld_timers _ _) (owner_timed hv (kept (taken_timers s) hs))
  | fetchFails => exact enterFaulted_timed _ (kept (withFetch_timers s _) hs)
  | writeResponse r => exact kept (withWriter_timers s _) hs
  | writeReport src => exact kept (issueReport_timers src s) hs
  | reportAck w src => exact kept (acknowledgeReport_timers src w s) hs
  | responseAck w => exact kept (acknowledgeResponse_timers w s) hs
  | writeFails w => exact enterFaulted_timed _ (kept (returnRecord_timers w s) hs)
  | writeReturns w => exact kept (returnRecord_timers w s) hs
  | submitTail | fetch | dropFetch => exact kept (withFetch_timers s _) hs
  | completeHead | dropWrite => exact kept (withWriter_timers s _) hs
  | window | load | resume => exact kept (withControl_timers s _) hs

theorem Move.pulses {c : Instr} {s t : State} (h : Move c s t) (hready : Ready s)
    (hs : PulsesFrom s.time.now.toNat s) : PulsesFrom t.time.now.toNat t := by
  have kept {u v : State} (h : TimersKept u v) (hu : PulsesFrom u.time.now.toNat u) : PulsesFrom v.time.now.toNat v := by
    rw [h.time]; exact hu.congr h.lines
  cases h.timerMove with
  | acts before hacts after =>
    exact kept after (acts_keep (Inv := fun s => PulsesFrom s.time.now.toNat s) (fun _ _ h => h.pulses) hacts
      (kept before hs))
  | tick pins => exact beginTick_pulses pins (finishTick_later hready)
  | request k _ hacts after =>
    exact kept after (acts_keep (Inv := fun s => PulsesFrom s.time.now.toNat s) (fun _ _ h => h.pulses) hacts
      (kept (taken_timers s) hs))
  | powerOn => exact fun _ _ _ _ _ => Nat.zero_le _
  | reset => exact fun m => by rw [controllerReset_line]; exact lineFrom_controllerReset _ _
  | apply b =>
    rw [applyBlock_time]
    exact fun m => by rw [applyBlock_line]; exact (hs m).load b _ _ m

/-- Settles O57: an expiry, an offer or a request leaves its slot IDLE, held, or with a deadline at or after device
time; a tick first takes every due slot and pulse end, so that device time can go on by one. -/
theorem deadlinesStayAhead : Obligations.DeadlinesStayAhead := by
  have kept : KeptByEveryStep fun s => Timed s ∧ PulsesFrom s.time.now.toNat s :=
    keptByEveryStep (fun s rest ⟨timed, pulses⟩ => ⟨timed.congr (t := s.withPending rest) (.of_eq rfl rfl) rfl, pulses⟩)
      (fun s ⟨timed, pulses⟩ => ⟨timed.congr (withTime_sameSlots s _) rfl, pulses⟩)
      fun _ _ _ h ⟨timed, pulses⟩ => ⟨h.timed timed, h.pulses timed.toReady pulses⟩
  rintro s t ⟨list, states, intervals, ahead, pulses⟩ hstep
  obtain ⟨timed, pulses⟩ := kept s t ⟨⟨⟨list, (slotsSound_iff s).2 ⟨states, intervals⟩⟩, ahead⟩, pulses⟩ hstep
  have slots := (slotsSound_iff t).1 timed.slots
  exact ⟨timed.list, slots.1, slots.2, timed.ahead, pulses⟩

end Sys2Proof.Proofs
end

section
/-! # Power-on reset

The invariants hold of the state after power-on reset (R6, R22, R23, R42, R63, R81, R114, R117, R132, R162). -/

namespace Sys2Proof.Proofs
open Sys2Proof.Machine Sys2Proof.Claims

theorem reset_arming (n : SlotNumber) : State.reset.slots[n].arming = none := by
  rw [reset_slot]; rfl

theorem reset_line (n : LineNumber) : State.reset.lines[n] = OutputLine.reset := by
  simp [State.reset]

theorem reset_pulses (b : Nat) : PulsesFrom b .reset := fun n d e hd _ => by
  rw [reset_line] at hd; exact nomatch hd

/-- Settles O58: after power-on reset no slot is armed, no report pending, no access in flight and no response held. -/
theorem invariantsHoldAtReset : Obligations.InvariantsHoldAtReset := by
  have timed : Timed .reset := timed_of_idle rfl reset_arming
  have slots := (slotsSound_iff _).1 timed.slots
  obtain ⟨ranges, ring, moderation⟩ := (countersInRange_iff .reset).1 (countersInRange_of_powerOn rfl rfl rfl rfl)
  exact ⟨timed.list, queueSound_of_empty rfl (fun src => by rw [reset_report]; rfl) rfl, fun h => (nomatch h),
    causesSound_reset,
    trafficSound_of_powerOn rfl rfl rfl rfl, ranges, ring, moderation, inputsSound_reset,
    countingSound_of_idle ⟨fun _ => rfl, nofun, nofun⟩ rfl rfl,
    ⟨fun _ hk => (nomatch hk), fun _ hr => (nomatch hr)⟩, fun _ _ hw => (nomatch hw), fun _ _ hr => (nomatch hr),
    slots.1, slots.2, timed.ahead,
    reset_pulses _⟩

end Sys2Proof.Proofs
end

section
/-! # The machine as a whole: steps, resets and ticks -/

namespace Sys2Proof.Proofs
open Sys2Proof.Machine Sys2Proof.Claims

/-! ## Steps and resets -/

theorem stepRunsTheFrontCommand : StepRunsTheFrontCommand := fun _ _ _ => step_cons

theorem idleStepCountsARefclkPeriod : IdleStepCountsARefclkPeriod := by
  refine fun s hs => ⟨fun h => ?_, fun h => ?_⟩ <;> rw [step_nil hs, refclkPeriod]
  · rw [if_pos h]; rfl
  · rw [if_neg (Nat.not_lt.2 h)]; rfl

/-- Settles O1: by the two cases of the queue. -/
theorem stepRunsTheFrontCommandOrIdles : Obligations.StepRunsTheFrontCommandOrIdles :=
  ⟨stepRunsTheFrontCommand, idleStepCountsARefclkPeriod⟩

theorem reset_group (g : GroupNumber) : State.reset.groups[g] = .running := by
  simp [State.reset]

theorem reset_readRegister (x : Register) : State.reset.readRegister x = 0 := by
  cases x <;> decide

theorem reset_causes : causesNumber State.reset.trip = 0 := by decide

theorem reset_configAddress : State.reset.control.configAddress = 0 := by decide

theorem reset_intAsserted : State.reset.intAsserted = false := by decide

/-- Settles O2: block by block, from the tables of the reset values. -/
theorem powerOnResetGivesTheResetValues : Obligations.PowerOnResetGivesTheResetValues := by
  intro s
  have slot (n : SlotNumber) : State.reset.slots[n] = Slot.reset := reset_slot n
  have line (n : LineNumber) : State.reset.lines[n] = OutputLine.reset := reset_line n
  have input (n : InputNumber) : State.reset.inputs[n] = InputLine.reset := reset_input n
  refine ⟨(State.reset.withFreeCount s.freeCount).withPending s.pending, rfl, ⟨rfl, rfl, rfl, rfl⟩, fun n => ?_,
    reset_group,
    rfl, fun n => ?_, rfl, fun n => ?_, ⟨rfl, reset_causes, rfl, rfl⟩, ⟨rfl, rfl, rfl, rfl, rfl⟩, rfl,
    ⟨rfl, rfl, rfl, rfl, rfl, rfl, rfl, rfl, rfl, rfl, rfl, rfl, rfl, rfl⟩, ⟨rfl, rfl, rfl, reset_configAddress, rfl⟩,
    reset_readRegister,
    reset_intAsserted, rfl, rfl⟩
  · rw [State.withPending_slots, State.withFreeCount_slots, slot]; exact ⟨rfl, rfl, rfl, rfl⟩
  · rw [State.withPending_lines, State.withFreeCount_lines, line]; exact ⟨rfl, rfl, rfl, rfl⟩
  · rw [State.withPending_inputs, State.withFreeCount_inputs, input]; exact ⟨rfl, rfl, rfl, rfl, rfl, rfl, rfl⟩

theorem controllerReset_group (s : State) (g : GroupNumber) : (controllerReset s).groups[g] = .running := by
  simp [controllerReset]

theorem controllerReset_fetch (f : FetchUnit) :
    f.controllerReset.base = f.base ∧ f.controllerReset.entries = f.entries ∧ f.controllerReset.head = 0
      ∧ f.controllerReset.tail = 0 ∧ f.controllerReset.inFlight = none := by
  obtain ⟨hbase, hentries, -, -⟩ := discard_ring f
  exact ⟨hbase, hentries, rfl, rfl, discard_inFlight f⟩

theorem controllerReset_intAsserted (s : State) : (controllerReset s).intAsserted = false := by
  simp [State.intAsserted, controllerReset, ControlBlock.controllerReset]

/-- Settles O3: block by block. -/
theorem controllerResetTakesAndKeeps : Obligations.ControllerResetTakesAndKeeps := fun s =>
  ⟨controllerReset s, rfl, rfl, controllerReset_slot s, controllerReset_group s, rfl, controllerReset_line s, rfl, rfl, rfl,
    controllerReset_fetch s.fetch, rfl, ⟨rfl, rfl, rfl, rfl, rfl, rfl, rfl, rfl, rfl, rfl, rfl, rfl, rfl, rfl⟩,
    ⟨rfl, rfl, rfl, rfl, rfl, rfl, rfl, rfl, rfl, rfl, rfl, rfl, rfl⟩, controllerReset_intAsserted s, rfl, rfl⟩

/-! ## The time base under a tick -/

theorem advance_of_not_counting {x : TimeBase} (h : x.counting ≠ .counting) : x.advance = x := by
  unfold TimeBase.advance
  cases hc : x.counting with
  | counting => exact absurd hc h
  | _ => rfl

theorem toNat_endOfTime : endOfTime.toNat = 2 ^ 64 - 1 := by decide

/-- Device time goes up by one, and ends at the end of its range (R3, R5). -/
theorem advance_of_counting {x : TimeBase} (h : x.counting = .counting) (hlt : x.now.toNat < 2 ^ 64 - 1) :
    x.advance.now.toNat = x.now.toNat + 1
      ∧ x.advance.counting = if x.now.toNat + 1 = 2 ^ 64 - 1 then .ended else .counting := by
  have hnext : (x.now + 1).toNat = x.now.toNat + 1 := by
    rw [BitVec.toNat_add]
    exact Nat.mod_eq_of_lt (by simpa using (by omega : x.now.toNat + 1 < 2 ^ 64))
  have hnow : x.now ≠ endOfTime := fun he => by rw [he, toNat_endOfTime] at hlt; omega
  have hend : x.now + 1 = endOfTime ↔ x.now.toNat + 1 = 2 ^ 64 - 1 := by
    rw [← BitVec.toNat_inj, hnext, toNat_endOfTime]
  unfold TimeBase.advance
  rw [h]
  dsimp only
  rw [if_neg hnow]
  by_cases he : x.now + 1 = endOfTime
  · rw [if_pos he, if_pos (hend.1 he)]; exact ⟨hnext, rfl⟩
  · rw [if_neg he, if_neg fun hn => he (hend.2 hn)]; exact ⟨hnext, rfl⟩

theorem tick_divider (x : TimeBase) : x.tick.divider = x.divider := by
  show x.advance.divider = _
  unfold TimeBase.advance
  split
  · rfl
  · rfl
  · split
    · rfl
    · split <;> rfl

theorem contents_of_unnoted {u v : Option CompletionWrite} (h : u.map unnoted = v.map unnoted) :
    u.map (·.contents) = v.map (·.contents) := by
  have contents : CompletionWrite.contents = CompletionWrite.contents ∘ unnoted := rfl
  rw [contents, ← Option.map_map, ← Option.map_map, h]

/-- Settles O4: what the tick before left is taken without a change of the time base, and the tick then moves it. -/
theorem tickMovesTheTimeBase : Obligations.TickMovesTheTimeBase := by
  intro pins s
  have still := (finishTick_acts s).still
  have quiet := still.toQuiet.trans (beginTick_quiet pins (finishTick s))
  have time : (beginTick pins (finishTick s)).time = s.time.tick := by rw [beginTick_time, still.time]
  refine ⟨beginTick pins (finishTick s), rfl, ?_, ?_, ?_, fun h => ?_, fun h => ?_, fun h hlt => ?_, fun h heq => ?_,
    fun n => ?_,
    ?_, quiet.fetch, quiet.held, quiet.configurationPresent, quiet.pending, quiet.control, ?_, ?_, ?_, ?_⟩
  · rw [time]; rfl
  · rw [time]; rfl
  · rw [time, tick_divider]
  · rw [time, tick_now, tick_counting, advance_of_not_counting (by rw [h]; nofun)]; exact ⟨rfl, h⟩
  · rw [time, tick_now, tick_counting, advance_of_not_counting (by rw [h]; nofun)]; exact ⟨rfl, h⟩
  · obtain ⟨hnow, hcounting⟩ := advance_of_counting h (by omega)
    rw [time, tick_now, tick_counting]
    exact ⟨hnow, by rw [hcounting, if_neg (by omega)]⟩
  · obtain ⟨hnow, hcounting⟩ := advance_of_counting h (by omega)
    rw [time, tick_now, tick_counting]
    exact ⟨by omega, by rw [hcounting, if_pos (by omega)]⟩
  · rw [(beginTick_sameSlots pins _).generation, still.generation]
  · rw [← still.groups]; simp [beginTick, tickDelay, sampleInputs]
  · exact contents_of_unnoted quiet.flight
  · rw [quiet.writer]
  · rw [quiet.writer]
  · rw [quiet.writer]

/-! ## A tick with no work left over -/

theorem deadlineOf_eq (sl : Slot) : deadlineOf sl = sl.deadline? := by
  unfold deadlineOf Slot.deadline?
  cases ha : sl.arming with
  | none => rfl
  | some a =>
    obtain ⟨_, _, _, _, _, _, phase⟩ := a
    cases phase <;> rfl

theorem map_eq_self {α : Type} {n : Nat} {v : Vector α n} {f : α → α} (h : ∀ i : Fin n, f v[i] = v[i]) : v.map f = v := by
  refine Vector.ext fun i hi => ?_
  rw [Vector.getElem_map]
  exact h ⟨i, hi⟩

theorem endPulse_eq_self {l : OutputLine} {now : Time} (h : ∀ e, l.drive.bind (·.pulseEnd) = some e → now < e.time) :
    l.endPulse now = l := by
  unfold OutputLine.endPulse
  cases hd : l.drive with
  | none => rw [Option.map_none, ← hd]
  | some d =>
    have kept : Drive.endPulse now d = d := by
      unfold Drive.endPulse
      split
      · rfl
      · rename_i e he
        have later := h e (by rw [hd]; exact he)
        rw [if_neg (BitVec.not_le.2 later)]
    rw [Option.map_some, kept, ← hd]

theorem takeEdge_idle {n : InputNumber} {s : State} (hedge : s.inputs[n].edge = none)
    (hacc : s.inputs[n].acceptable = none) : takeEdge n .slotsFirst s = s := by
  have begun : beginEdge n s = s := by
    rcases beginEdge_cases n s with ⟨e, -, h⟩ | ⟨-, -, h⟩ | ⟨level, -, ha, -⟩
    · exact h
    · exact h
    · exact nomatch hacc.symm.trans ha
  rw [takeEdge, begun, offersOfEdge_none hedge, statusOfEdge_none hedge]

/-- No slot is due, no pulse end due, no edge due or under way, and no delay timer has run out: nothing is left over. -/
theorem finishTick_idle {s : State} (hdue : s.dueSlots = [])
    (hpulse : ∀ (n : LineNumber) e, pulseOf n s = some e → s.time.now < e.time)
    (hsettled : ∀ n : InputNumber, LineSettled s.inputs[n]) (htimer : s.writer.delayTimer ≠ some 0) : finishTick s = s := by
  have pulses : takePulseEnds s = s := by
    unfold takePulseEnds
    rw [map_eq_self fun n => endPulse_eq_self (hpulse n)]
    rfl
  have edges : finishEdges s = s :=
    List.foldlRecOn (motive := fun t => t = s) _ (fun t n => takeEdge n .slotsFirst t) rfl fun t ht n _ => by
      rw [ht, takeEdge_idle (hsettled n).1 (hsettled n).2]
  rw [finishTick, takeDue_of_none hdue, pulses, edges, moderationExpiry, if_neg htimer]

theorem acceptable_of_count_lt {l : InputLine} (h : ∀ c, l.candidate = some c → c.count < l.filter.toNat) :
    l.acceptable = none := by
  cases ha : l.acceptable with
  | none => rfl
  | some level =>
    obtain ⟨c, hc, hfull, -⟩ := acceptable_eq_some ha
    exact absurd (h c hc) (Nat.not_lt.2 hfull)

/-- The sample of one line, case by case (R75, R76). -/
theorem sample_spec (level : Bool) (l : InputLine) :
    (l.sample level).raw = some level ∧ (l.sample level).filter = l.filter ∧ (l.sample level).tripLevel = l.tripLevel
      ∧ (l.sample level).active = l.active ∧ (l.sample level).edge = l.edge
      ∧ (l.qualified = none → (l.sample level).qualified = some level ∧ (l.sample level).candidate = l.candidate)
      ∧ (l.qualified ≠ none → (l.sample level).qualified = l.qualified)
      ∧ (l.qualified = some level → (l.sample level).candidate = none)
      ∧ (l.qualified = some (!level) → l.candidate = none →
          (l.sample level).candidate = some { level := level, count := 0 })
      ∧ (l.qualified = some (!level) → ∀ k, l.candidate = some { level := level, count := k } →
          (l.sample level).candidate = some { level := level, count := k + 1 }) := by
  unfold InputLine.sample
  cases hq : l.qualified with
  | none => simp
  | some q =>
    by_cases hl : level = q
    · subst hl; simp
    · have hq' : q = !level := by cases q <;> cases level <;> simp_all
      subst hq'
      cases hc : l.candidate with
      | none => simp [nextCandidate]
      | some c => simp +contextual [nextCandidate]

/-- Settles O5: with nothing left over the tick before ends as it stands, and the tick samples, counts and advances
alone. -/
theorem tickSamplesAndFilters : Obligations.TickSamplesAndFilters := by
  intro pins s hdue hpulse hcount hedge htimer
  have nodue : s.dueSlots = [] := by
    refine List.filter_eq_nil_iff.2 fun n hn hd => ?_
    obtain ⟨d, hd, hle⟩ := (State.isDue_iff n s).1 hd
    exact absurd (hdue n hn d (by rw [deadlineOf_eq, hd])) (BitVec.not_lt.2 hle)
  have idle : finishTick s = s :=
    finishTick_idle nodue hpulse (fun n => ⟨hedge n, acceptable_of_count_lt (hcount n)⟩) htimer
  refine ⟨beginTick pins (finishTick s), rfl, ?_, fun n => ?_⟩ <;> rw [idle]
  · simp [beginTick, tickDelay, sampleInputs, State.withTime, State.withInputs, State.withWriter]
  · rw [beginTick_input]
    obtain ⟨hraw, hfilter, htrip, hactive, hkept, rest⟩ := sample_spec (pins.getLsbD n.val) s.inputs[n]
    exact ⟨hraw, hfilter, htrip, hactive, hkept.trans (hedge n), rest⟩

end Sys2Proof.Proofs
end

section
/-! # Actions, events, raises and pulse ends -/

namespace Sys2Proof.Proofs
open Sys2Proof.Machine Sys2Proof.Claims

/-! ## Actions (R51, R64, R65) -/

theorem lineTripped_iff (n : LineNumber) (s : State) :
    s.lineTripped n = true ↔ s.lines[n].participates = true ∧ s.trip.state = .tripped := by
  simp [State.lineTripped, -Fin.getElem_fin]

section
variable {x : Action} {s : State}

theorem actionOutcome_of_disabled (h : s.lines[x.line].drive = none) : s.actionOutcome (some x) = .dropped := by
  simp only [State.actionOutcome, h]
  rfl

theorem actionOutcome_of_tripped {d : Drive} (h : s.lines[x.line].drive = some d) (ht : s.lineTripped x.line = true) :
    s.actionOutcome (some x) = .suppressed := by
  simp only [State.actionOutcome, h, ht]
  rfl

theorem actionOutcome_of_free {d : Drive} (h : s.lines[x.line].drive = some d) (ht : s.lineTripped x.line = false) :
    s.actionOutcome (some x) = .performed := by
  simp only [State.actionOutcome, h, ht]
  rfl

theorem performAction_of_not_performed (h : s.actionOutcome (some x) ≠ .performed) : s.performAction (some x) = s :=
  if_neg h

theorem performAction_of_performed {d : Drive} (hd : s.lines[x.line].drive = some d)
    (h : s.actionOutcome (some x) = .performed) :
    s.performAction (some x) = s.putDrive x.line (some (d.apply x.kind s.time.now)) := by
  unfold State.performAction
  dsimp only
  rw [if_pos h, hd]
  rfl
end

theorem later?_eq (t : Time) (n : Nat) :
    later? t n = if t.toNat + n < 2 ^ 64 then some (BitVec.ofNat 64 (t.toNat + n)) else none := rfl

theorem pulseEndAfter_eq (now : Time) (width : BitVec 32) (level : Bool) :
    pulseEndAfter now width level = if now.toNat + width.toNat < 2 ^ 64 then
      some { time := BitVec.ofNat 64 (now.toNat + width.toNat), level := level } else none := by
  rw [pulseEndAfter, later?_eq]
  split <;> rfl

theorem putDrive_frame (n : LineNumber) (d : Option Drive) (s : State) :
    s.putDrive n d = { s with lines := (s.putDrive n d).lines } := rfl

/-- Settles O20: by the outcome of the action. -/
theorem actionsActOnTheirLine : Obligations.ActionsActOnTheirLine := by
  intro x s
  refine ⟨rfl, rfl, fun h => ?_, fun d h ht => ?_, fun d h ht => ?_⟩
  · have outcome := actionOutcome_of_disabled h
    exact ⟨outcome, performAction_of_not_performed (by rw [outcome]; nofun)⟩
  · have outcome := actionOutcome_of_tripped h ((lineTripped_iff _ s).2 ht)
    exact ⟨outcome, performAction_of_not_performed (by rw [outcome]; nofun)⟩
  · have outcome := actionOutcome_of_free h (Bool.eq_false_iff.2 fun hl => ht ((lineTripped_iff _ s).1 hl))
    rw [performAction_of_performed h outcome, putDrive_line]
    refine ⟨outcome, putDrive_frame _ _ s, fun m hm => putDrive_line_ne _ s hm, rfl, fun hk => ?_, fun hk => ?_,
      fun hk => ?_,
      fun w hk => ?_, fun w hk => ?_⟩ <;> rw [hk]
    · rfl
    · rfl
    · rfl
    · exact congrArg (fun e => some { level := true, pulseEnd := e : Drive }) (pulseEndAfter_eq _ w false)
    · exact congrArg (fun e => some { level := false, pulseEnd := e : Drive }) (pulseEndAfter_eq _ w true)

/-! ## Events (R150, R151, R156) -/

theorem toNat_saturatingSucc (c : BitVec 16) : (saturatingSucc c).toNat = min 65535 (c.toNat + 1) := by
  unfold saturatingSucc
  have hlt := c.isLt
  split
  · rename_i h; subst h; decide
  · rename_i h
    have hne : c.toNat ≠ 65535 := fun e => h (BitVec.eq_of_toNat_eq e)
    have hsum : (c + 1).toNat = c.toNat + 1 := by
      rw [BitVec.toNat_add, Nat.mod_eq_of_lt]
      · rfl
      · show c.toNat + 1 < 65536
        omega
    omega

theorem beq_allOnes_eq (c : BitVec 16) : (c == BitVec.allOnes 16) = decide (c.toNat = 65535) := by
  have hiff : c = BitVec.allOnes 16 ↔ c.toNat = 65535 := by rw [← BitVec.toNat_inj]; rfl
  rw [Bool.beq_eq_decide_eq, decide_eq_decide]
  exact hiff

/-- Settles O21: the fields by `ReportFields.coalesce`, state and queue by the state the event finds. -/
theorem eventsCoalesceAtTheirSource : Obligations.EventsCoalesceAtTheirSource := by
  intro src o makesPending s
  have report := State.recordEvent_report src o makesPending s
  refine ⟨?_, fun h => ?_, fun h hstate => ?_, fun h hstate => ?_,
    fun src' h => State.recordEvent_report_ne o makesPending s h,
    State.recordEvent_slot src o makesPending s, State.recordEvent_frame src o makesPending s⟩
  · rw [report]
    refine ⟨rfl, rfl, rfl, toNat_saturatingSucc _, ?_⟩
    simp only [ReportFields.coalesce, ReportFlags.union, beq_allOnes_eq, Bool.or_false]
  · subst h
    obtain ⟨queue, inFlight⟩ := recordEvent_silent src o s
    exact ⟨by rw [report]; rfl, queue, inFlight⟩
  · subst h
    obtain ⟨queue, inFlight⟩ := recordEvent_joins hstate o
    exact ⟨by rw [report]; rfl, queue, inFlight⟩
  · subst h
    obtain ⟨queue, inFlight⟩ := recordEvent_notes hstate o
    exact ⟨by rw [report]; rfl, queue, inFlight⟩

/-! ## Raises (R69, R104, R108, R109, R110) -/

theorem addCause_raised (r : Raise) (t : TripUnit) : Raised r t (t.addCause r) := by
  refine ⟨fun n => addCause_inputCauses r t n, ?_, ?_, ?_⟩ <;> cases r <;> simp [TripUnit.addCause, Raise.kind]

theorem raise_raised (r : Raise) (s : State) : Raised r s.trip (s.raise r).trip := by
  rw [State.raise_trip]
  cases s.trip.state <;> exact addCause_raised r s.trip

theorem causeMask_eq (t : TripUnit) : 0#48 ++ t.causeMask = BitVec.ofNat 64 (causesNumber t) := by
  apply BitVec.eq_of_toNat_eq
  have hvalue : (0#48 ++ t.causeMask).toNat = causesNumber t := by
    rw [toNat_append_eq_add, toNat_causeMask, BitVec.toNat_ofNat, Nat.zero_mod, Nat.mul_zero, Nat.add_zero]
  rw [BitVec.toNat_ofNat, ← hvalue, Nat.mod_eq_of_lt (0#48 ++ t.causeMask).isLt]

/-- The TRIP event that a raise records shows the causes that the raise leaves (R110). -/
theorem recordTripEvent_eq (s : State) :
    s.recordTripEvent = s.recordEvent .controller
      { event := .trip, time := s.time.now, tag := BitVec.ofNat 64 (causesNumber s.trip), flags := {} } true := by
  rw [State.recordTripEvent, causeMask_eq]

theorem recordTripEvent_trip (s : State) : s.recordTripEvent.trip = s.trip := by
  rw [State.recordTripEvent, State.recordEvent_trip]

theorem raise_of_tripped {r : Raise} {s : State} (h : s.trip.state = .tripped) :
    s.raise r = (s.withTrip (s.raise r).trip).recordTripEvent ∧ (s.raise r).trip = s.trip.addCause r := by
  have raised : s.raise r = (s.withTrip (s.trip.addCause r)).recordTripEvent := by
    unfold State.raise
    dsimp only
    rw [h]
  have trip : (s.raise r).trip = s.trip.addCause r := by rw [raised, recordTripEvent_trip]; rfl
  exact ⟨by rw [trip]; exact raised, trip⟩

theorem raise_of_clear {r : Raise} {s : State} (h : s.trip.state = .clear) :
    s.raise r = (((s.withTrip (s.raise r).trip).withLines (s.lines.map OutputLine.forceSafe)).setCause
        intTrip).recordTripEvent
      ∧ (s.raise r).trip = { s.trip.addCause r with
          state := .tripped, record := { kind := r.kind, index := r.index, time := s.time.now } } := by
  have trip : (s.raise r).trip = { s.trip.addCause r with
      state := .tripped, record := { kind := r.kind, index := r.index, time := s.time.now } } := by
    rw [State.raise_trip, h]
  refine ⟨?_, trip⟩
  rw [trip]
  unfold State.raise
  dsimp only
  rw [h]
  rfl

theorem forceSafe_line (s : State) (n : LineNumber) : (s.lines.map OutputLine.forceSafe)[n] = s.lines[n].forceSafe := by
  simp

theorem toNat_faultCode (c : FaultCause) : c.code.toNat = faultNumber c := by cases c <;> rfl

theorem controllerFault_index (c : FaultCause) : (Raise.controllerFault c).index = BitVec.ofNat 8 (faultNumber c) := by
  cases c <;> rfl

theorem toNat_ofNat8 {n : Nat} (h : n < 256) : (BitVec.ofNat 8 n).toNat = n := by
  rw [BitVec.toNat_ofNat]
  exact Nat.mod_eq_of_lt h

/-- Settles O22: by the trip state the raise finds. -/
theorem raisesTripTheDevice : Obligations.RaisesTripTheDevice := by
  intro r s
  have tripped := raise_tripped r s
  refine ⟨tripped, by simp [State.faultAsserted, tripped], raise_raised r s, fun h => ?_, fun h => ?_⟩
  · obtain ⟨raised, trip⟩ := raise_of_tripped (r := r) h
    refine ⟨?_, by rw [trip]; cases r <;> rfl⟩
    rw [recordTripEvent_eq] at raised
    exact raised
  · obtain ⟨raised, trip⟩ := raise_of_clear (r := r) h
    refine ⟨s.lines.map OutputLine.forceSafe, ?_, by rw [trip], by rw [trip], fun n hr => ?_, fun n hr => ?_,
      fun c hr => ?_,
      fun hr => ?_, fun n hp => ?_, fun n hp => ?_⟩
    · rw [recordTripEvent_eq] at raised
      exact raised
    · rw [trip, hr]; exact toNat_ofNat8 (n.isLt.trans (by decide))
    · rw [trip, hr]; exact toNat_ofNat8 n.isLt
    · rw [trip, hr]; exact controllerFault_index c
    · rw [trip, hr]; rfl
    · rw [forceSafe_line]; exact if_neg (by rw [hp]; nofun)
    · rw [forceSafe_line]; exact if_pos hp

/-! ## Pulse ends (R66) -/

theorem exec_pulseEnd (n : LineNumber) (s : State) : exec (.pulseEnd n) s = .next (takePulseEnd n s) := rfl

theorem takePulseEnd_frame (n : LineNumber) (s : State) : takePulseEnd n s = { s with lines := (takePulseEnd n s).lines } :=
  rfl

theorem vector_set_self {α : Type} {n : Nat} (v : Vector α n) (i : Fin n) : v.set i v[i] = v := by
  simp

/-- A line whose pulse end has not come is left as it is. -/
theorem takePulseEnd_idle {n : LineNumber} {s : State} (h : ∀ e, pulseOf n s = some e → s.time.now < e.time) :
    takePulseEnd n s = s := by
  unfold takePulseEnd
  rw [endPulse_eq_self h, vector_set_self]
  rfl

/-- Settles O28: by what the line's pulse end is. -/
theorem pulseEndsDriveTheEndLevel : Obligations.PulseEndsDriveTheEndLevel := by
  intro s n
  rw [exec_pulseEnd]
  refine ⟨fun e he hle => ⟨_, rfl, takePulseEnd_frame n s, fun m hm => ?_, ?_⟩, fun e he hlt => ?_, fun h => ?_⟩
  · rw [takePulseEnd_line, if_neg hm]
  · obtain ⟨d, hd, hde⟩ := Option.bind_eq_some_iff.1 he
    rw [takePulseEnd_line, if_pos rfl, OutputLine.endPulse, hd, Option.map_some, Drive.endPulse, hde]
    dsimp only
    rw [if_pos hle]
  · rw [takePulseEnd_idle fun e' he' => Option.some.inj (he.symm.trans he') ▸ hlt]
  · rw [takePulseEnd_idle fun e he => nomatch h.symm.trans he]

end Sys2Proof.Proofs
end

section
/-! # Expiries, row by row (R50 to R60, R86, R87, R89, R92 to R94) -/

namespace Sys2Proof.Proofs
open Sys2Proof.Machine Sys2Proof.Claims

/-! ## Events of an arming -/

/-- The flags that an event gathers from its action (R51) and its own. -/
theorem outcomeFlags_union (a : Arming) (s : State) (late overrun final : Bool) :
    (s.actionOutcome a.action).flags.union { late := late, overrun := overrun, final := final }
      = { actionFlags a s with late := late, overrun := overrun, final := final } := by
  unfold actionFlags
  cases s.actionOutcome a.action <;> simp [ActionOutcome.flags, ReportFlags.union]

/-- The events whose report the policy alone decides: all but those of guards (R53). -/
def Plain (event : Event) : Prop := event ≠ .guardWarn ∧ event ≠ .guardFault

theorem plain_expiry : Plain .expiry := by unfold Plain; decide
theorem plain_timeout : Plain .timeout := by unfold Plain; decide
theorem plain_capture : Plain .capture := by unfold Plain; decide

theorem makesPending_of_plain {event : Event} (h : Plain event) (policy : ReportPolicy) (flags : ReportFlags) :
    policy.makesPending event flags = (policy == .every || (policy == .final && flags.final)) := by
  obtain ⟨notWarn, notFault⟩ := h
  cases policy with
  | every => rfl
  | final => exact (Bool.true_and _).symm
  | none =>
    cases event with
    | guardWarn => exact absurd rfl notWarn
    | guardFault => exact absurd rfl notFault
    | _ => rfl

theorem every_or_final (policy : ReportPolicy) : (policy == .every || (policy == .final && true)) = (policy != .none) := by
  cases policy <;> rfl

/-- An event of an arming recorded at the time of `s`. -/
theorem recordSlotEvent_eq {n : SlotNumber} {a : Arming} {event : Event} {flags : ReportFlags} {s u : State}
    (ht : u.time = s.time) :
    u.recordSlotEvent n a event flags
      = u.recordEvent (.slot n) (occurs event a flags s) (a.policy.makesPending event flags) := by
  rw [State.recordSlotEvent, occurs, ht]

theorem processed_time (x : Option Action) (n : SlotNumber) (after : Option Arming) (s : State) :
    ((s.performAction x).putArming n after).time = s.time := by
  rw [State.putArming_time, State.performAction_time]

/-! ## The row of the head -/

theorem isLate_eq {a : Arming} {d : Time} (hd : a.deadline? = some d) (now : Time) : isLate a now = decide (d < now) := by
  simp only [isLate, hd]

theorem expiresNext_of_comesDue {n : SlotNumber} {a : Arming} {d : Time} {s : State} (h : ComesDue n a d s)
    (hd : a.deadline? = some d) : s.expiresNext n = true := by
  obtain ⟨ha, hhead, hle⟩ := h
  exact (State.expiresNext_iff n s).2 ⟨hhead, d, Option.bind_eq_some_iff.2 ⟨a, ha, hd⟩, hle⟩

/-- The row of its kind takes the due head with its processing (R50). -/
theorem whenExpires_of_comesDue {n : SlotNumber} {a : Arming} {d : Time} {s : State} (h : ComesDue n a d s)
    (hd : a.deadline? = some d) {k : ExpiryKind} (hk : a.expiryKind? = some k) (p : Arming → Bool → State → State) :
    whenExpires n k p s = p a (decide (d < s.time.now)) s := by
  have next := expiresNext_of_comesDue h hd
  obtain ⟨ha, -, -⟩ := h
  unfold whenExpires
  rw [ha]
  dsimp only
  rw [if_pos ⟨hk, next⟩, isLate_eq hd]

theorem deadline?_armed {a : Arming} {d : Time} (h : a.phase = .armed d) : a.deadline? = some d := by
  simp only [Arming.deadline?, h]

theorem deadline?_waiting {a : Arming} {d : Option Time} (h : a.phase = .waiting d) : a.deadline? = d := by
  simp only [Arming.deadline?, h]

/-! ## ONCE and the timeout -/

theorem onceExpiry_eq (n : SlotNumber) (a : Arming) (late : Bool) (s : State) :
    onceExpiry n a late s = ((s.performAction a.action).putArming n none).recordEvent (.slot n)
      (occurs .expiry a { actionFlags a s with final := true, late := late } s) (a.policy != .none) := by
  rw [onceExpiry, recordSlotEvent_eq (processed_time _ _ _ s), outcomeFlags_union a s late false true,
    makesPending_of_plain plain_expiry, every_or_final]
  rfl

theorem onceExpiryEndsTheSlot : OnceExpiryEndsTheSlot := by
  intro s n a d h hpart hphase
  have kind : a.expiryKind? = some .once := by simp only [Arming.expiryKind?, hpart, hphase]
  show Host.Outcome.next (whenExpires n .once (onceExpiry n) s) = _
  rw [whenExpires_of_comesDue h (deadline?_armed hphase) kind, onceExpiry_eq]

theorem timeoutEndsTheWait : TimeoutEndsTheWait := by
  intro s n a e d h hpart hphase
  have kind : a.expiryKind? = some .timeout := by simp only [Arming.expiryKind?, hpart, hphase]
  show Host.Outcome.next (whenExpires n .timeout (timeoutExpiry n) s) = _
  rw [whenExpires_of_comesDue h (deadline?_waiting hphase) kind, timeoutExpiry,
    recordSlotEvent_eq (State.putArming_time n none s), makesPending_of_plain plain_timeout, every_or_final]

/-- Settles O26: each row's processing written out. -/
theorem finalExpiriesEndTheSlot : Obligations.FinalExpiriesEndTheSlot := ⟨onceExpiryEndsTheSlot, timeoutEndsTheWait⟩

/-! ## REPEAT -/

theorem countLimit_eq (limit : BitVec 16) (n : Nat) : countLimit limit n = limitAfter limit n := by
  unfold countLimit limitAfter
  split
  · rfl
  · by_cases h : n < limit.toNat
    · rw [if_pos h, if_neg (by omega)]
    · rw [if_neg h, if_pos (by omega)]

theorem isNone_eq {α : Type} [DecidableEq α] (o : Option α) : o.isNone = decide (o = none) := by
  cases o <;> rfl

theorem applyStaged_missed (p : RepeatPart) (d now : Time) : p.applyStaged.missed d now =
    if p.latePolicy = .onGrid then (now.toNat - d.toNat) / ((p.staged.bind (·.period)).getD p.period).toNat else 0 := by
  obtain ⟨period, limit, latePolicy, staged⟩ := p
  cases latePolicy <;> rfl

theorem later?_eq_ite (t : Time) (k : Nat) :
    later? t k = if 2 ^ 64 ≤ t.toNat + k then none else some (BitVec.ofNat 64 (t.toNat + k)) := by
  rw [later?_eq]
  by_cases h : t.toNat + k < 2 ^ 64
  · rw [if_pos h, if_neg (Nat.not_le.2 h)]
  · rw [if_neg h, if_pos (Nat.not_lt.1 h)]

theorem next?_eq (p : RepeatPart) (d now : Time) : p.next? d now =
    let next := if p.latePolicy = .onGrid then d.toNat + (p.missed d now + 1) * p.period.toNat
      else now.toNat + p.period.toNat
    if 2 ^ 64 ≤ next then none else some (BitVec.ofNat 64 next) := by
  obtain ⟨period, limit, latePolicy, staged⟩ := p
  cases latePolicy
  · exact later?_eq_ite _ _
  · exact later?_eq_ite _ _

/-- What an expiry leaves of a REPEAT slot with deadline `d`, written out (R56 to R60). -/
theorem repeatAfter_eq {a : Arming} {d : Time} (hd : a.deadline? = some d) (p : RepeatPart) (now : Time) :
    repeatAfter a p now =
      let period := (p.staged.bind (·.period)).getD p.period
      let missed := p.applyStaged.missed d now
      let next := if p.latePolicy = .onGrid then d.toNat + (missed + 1) * period.toNat else now.toNat + period.toNat
      if 2 ^ 64 ≤ next then none
      else (limitAfter ((p.staged.bind (·.limit)).getD p.limit) (1 + missed)).map fun left =>
        { a with
          action := stagedAction a p
          part := .repeating { period := period, limit := left, latePolicy := p.latePolicy, staged := none }
          phase := .armed (BitVec.ofNat 64 next) } := by
  unfold repeatAfter
  rw [hd, Option.getD_some]
  dsimp only
  rw [next?_eq, countLimit_eq]
  exact apply_ite (fun o : Option Time => o.bind _) _ _ _

/-- Settles O23: the row's processing, with what it leaves of the slot written out. -/
theorem repeatExpiryKeepsItsGrid : Obligations.RepeatExpiryKeepsItsGrid := by
  intro s n a p d h hpart hphase
  have kind : a.expiryKind? = some .repeating := by simp only [Arming.expiryKind?, hpart, hphase]
  have deadline := deadline?_armed hphase
  show Host.Outcome.next (whenExpires n .repeating (repeatExpiry n) s) = _
  rw [whenExpires_of_comesDue h deadline kind, repeatExpiry, hpart]
  dsimp only
  rw [recordSlotEvent_eq (processed_time _ _ _ s), makesPending_of_plain plain_expiry, outcomeFlags_union, isNone_eq,
    repeatAfter_eq deadline, deadline, Option.getD_some, applyStaged_missed]
  rfl

/-! ## Guards -/

theorem faultFlags_union (a : Arming) (s : State) (late warned early : Bool) :
    ((s.actionOutcome a.action).flags.union { final := true }).union { late := late, warned := warned, early := early }
      = { actionFlags a s with final := true, late := late, warned := warned, early := early } := by
  rw [outcomeFlags_union a s false false true]
  simp [actionFlags, ReportFlags.union]

theorem makesPending_guardFault (policy : ReportPolicy) (flags : ReportFlags) (hfinal : flags.final = true) :
    policy.makesPending .guardFault flags = true := by
  cases policy with
  | every => rfl
  | final => exact hfinal
  | none => rfl

theorem makesPending_guardWarn (policy : ReportPolicy) (late warned early : Bool) :
    policy.makesPending .guardWarn { late := late, warned := warned, early := early } = (policy != .final) := by
  cases policy <;> rfl

/-- What the fault step of a guard comes to (R93). -/
def faulted (n : SlotNumber) (a : Arming) (g : GuardPart) (late warned early : Bool) (s : State) : State :=
  let t := ((s.performAction a.action).putArming n none).recordEvent (.slot n)
    (occurs .guardFault a { actionFlags a s with final := true, late := late, warned := warned, early := early } s) true
  if g.tripOnFault then t.raise (.guard n) else t

theorem guardFaultStep_eq (n : SlotNumber) (a : Arming) (g : GuardPart) (late warned early : Bool) (s : State) :
    guardFaultStep n a g { late := late, warned := warned, early := early } s = faulted n a g late warned early s := by
  rw [guardFaultStep, recordSlotEvent_eq (processed_time _ _ _ s), faultFlags_union, makesPending_guardFault _ _ rfl]
  rfl

theorem guardWarnStep_of_lt {n : SlotNumber} {a : Arming} {g : GuardPart} {late early : Bool} {s : State}
    (h : s.time.now.toNat + g.grace.toNat < 2 ^ 64) :
    guardWarnStep n a g late early s =
      (s.putArming n (some { a with
        part := .guard { g with stage := .warned }
        phase := .armed (BitVec.ofNat 64 (s.time.now.toNat + g.grace.toNat)) })).recordEvent (.slot n)
        (occurs .guardWarn a { late := late, warned := true, early := early } s) (a.policy != .final) := by
  rw [guardWarnStep, later?_eq, if_pos h]
  dsimp only
  rw [recordSlotEvent_eq (State.putArming_time n _ s), makesPending_guardWarn]

theorem guardWarnStep_of_ge {n : SlotNumber} {a : Arming} {g : GuardPart} {late early : Bool} {s : State}
    (h : 2 ^ 64 ≤ s.time.now.toNat + g.grace.toNat) :
    guardWarnStep n a g late early s = faulted n a g late true early s := by
  rw [guardWarnStep, later?_eq, if_neg (Nat.not_lt.2 h)]
  exact guardFaultStep_eq n a g late true early s

theorem guardWarnStartsTheGrace : GuardWarnStartsTheGrace := by
  intro s n a g d h hpart hstage hphase
  have kind : a.expiryKind? = some .guardWarn := by simp only [Arming.expiryKind?, hpart, hphase, hstage, if_true]
  have row : exec (.guardWarn n) s = .next (guardWarnStep n a g (decide (d < s.time.now)) false s) := by
    show Host.Outcome.next (whenExpires n .guardWarn (guardWarnExpiry n) s) = _
    rw [whenExpires_of_comesDue h (deadline?_armed hphase) kind, guardWarnExpiry, hpart]
  exact ⟨fun fits => row.trans (congrArg _ (guardWarnStep_of_lt fits)),
    fun tooLate => row.trans (congrArg _ (guardWarnStep_of_ge tooLate))⟩

theorem guardFaultEndsTheGuard : GuardFaultEndsTheGuard := by
  intro s n a g d h hpart hstage hphase
  have kind : a.expiryKind? = some .guardFault := by simp [Arming.expiryKind?, hpart, hphase, hstage]
  show Host.Outcome.next (whenExpires n .guardFault (fun a _ => guardFaultExpiry n a) s) = _
  rw [whenExpires_of_comesDue h (deadline?_armed hphase) kind, guardFaultExpiry, hpart]
  exact congrArg _ (guardFaultStep_eq n a g false false false s)

/-- Settles O24: each step by its own equation. -/
theorem guardsWarnAndFault : Obligations.GuardsWarnAndFault := ⟨guardWarnStartsTheGrace, guardFaultEndsTheGuard⟩

/-! ## After-edge delays -/

theorem restartTimeout_eq (e : EdgePart) (now : Time) : restartTimeout e now =
    match e.timeout with
    | none => some none
    | some k => if 2 ^ 64 ≤ now.toNat + k.toNat then none else some (some (BitVec.ofNat 64 (now.toNat + k.toNat))) := by
  unfold restartTimeout
  cases e.timeout with
  | none => rfl
  | some k =>
    dsimp only
    rw [later?_eq_ite]
    exact apply_ite (Option.map some) _ _ _

theorem waitAgain_eq (a : Arming) (e : EdgePart) (now : Time) : waitAgain a e now = waitsAgain a e now := by
  unfold waitAgain waitsAgain
  rw [countLimit_eq, restartTimeout_eq]
  cases limitAfter e.limit 1 with
  | none => rfl
  | some left =>
    cases e.timeout with
    | none => rfl
    | some k => exact apply_ite (Option.map _) _ _ _

/-- Settles O25: the row's processing, what it leaves of the slot being `waitsAgain`. -/
theorem afterEdgeExpiryWaitsAgain : Obligations.AfterEdgeExpiryWaitsAgain := by
  intro s n a e d h hpart hphase
  have kind : a.expiryKind? = some .afterEdge := by simp only [Arming.expiryKind?, hpart, hphase]
  show Host.Outcome.next (whenExpires n .afterEdge (afterEdgeExpiry n) s) = _
  rw [whenExpires_of_comesDue h (deadline?_armed hphase) kind, afterEdgeExpiry, hpart]
  dsimp only
  rw [recordSlotEvent_eq (processed_time _ _ _ s), makesPending_of_plain plain_expiry,
    outcomeFlags_union a s _ false, isNone_eq, waitAgain_eq]
  rfl

/-! ## The head alone -/

/-- The row that commands an expiry of a kind (R50). -/
def rowFor (n : SlotNumber) : ExpiryKind → Instr
  | .once => .onceExpiry n
  | .repeating => .repeatExpiry n
  | .guardWarn => .guardWarn n
  | .guardFault => .guardFault n
  | .afterEdge => .afterEdgeExpiry n
  | .timeout => .timeout n

theorem rowFor_injective (n : SlotNumber) {k l : ExpiryKind} (h : rowFor n k = rowFor n l) : k = l := by
  cases k <;> cases l <;> simp [rowFor] at h ⊢

theorem exists_rowFor {n : SlotNumber} {c : Instr}
    (h : c ∈ [Instr.onceExpiry n, .repeatExpiry n, .guardWarn n, .guardFault n, .afterEdgeExpiry n, .timeout n]) :
    ∃ k, c = rowFor n k := by
  simp only [List.mem_cons, List.not_mem_nil, or_false] at h
  rcases h with rfl | rfl | rfl | rfl | rfl | rfl
  exacts [⟨.once, rfl⟩, ⟨.repeating, rfl⟩, ⟨.guardWarn, rfl⟩, ⟨.guardFault, rfl⟩, ⟨.afterEdge, rfl⟩, ⟨.timeout, rfl⟩]

theorem rowOf_eq (n : SlotNumber) (a : Arming) : rowOf n a = a.expiryKind?.map (rowFor n) := by
  obtain ⟨_, _, _, _, _, part, phase⟩ := a
  cases phase with
  | armed d =>
    cases part with
    | guard g =>
      show some (if g.stage = .normal then Instr.guardWarn n else .guardFault n)
        = Option.map (rowFor n) (if g.stage = .normal then some .guardWarn else some .guardFault)
      cases g.stage <;> rfl
    | _ => rfl
  | waiting d => cases d <;> cases part <;> rfl
  | held f k => cases part <;> rfl

/-- The processing of each kind (R50). -/
def processing (n : SlotNumber) : ExpiryKind → Arming → Bool → State → State
  | .once => onceExpiry n
  | .repeating => repeatExpiry n
  | .guardWarn => guardWarnExpiry n
  | .guardFault => fun a _ => guardFaultExpiry n a
  | .afterEdge => afterEdgeExpiry n
  | .timeout => timeoutExpiry n

theorem exec_rowFor_eq (n : SlotNumber) (k : ExpiryKind) (s : State) :
    exec (rowFor n k) s = .next (whenExpires n k (processing n k) s) := by
  cases k <;> rfl

theorem takeExpiry_eq_processing {n : SlotNumber} {k : ExpiryKind} {a : Arming} {s : State}
    (ha : s.slots[n].arming = some a) (hk : a.expiryKind? = some k) :
    takeExpiry n s = processing n k a (isLate a s.time.now) s := by
  unfold takeExpiry
  rw [ha]
  dsimp only
  rw [hk]
  cases k <;> rfl

theorem exec_rowFor_of_next {n : SlotNumber} {k : ExpiryKind} {a : Arming} {s : State}
    (ha : s.slots[n].arming = some a) (hk : a.expiryKind? = some k) (next : s.expiresNext n = true) :
    exec (rowFor n k) s = .next (takeExpiry n s) := by
  rw [exec_rowFor_eq, takeExpiry_eq_processing ha hk]
  unfold whenExpires
  rw [ha]
  exact congrArg _ (if_pos ⟨hk, next⟩)

theorem exec_rowFor_of_not_next {n : SlotNumber} {k : ExpiryKind} {s : State}
    (h : ¬ ∃ a, s.slots[n].arming = some a ∧ a.expiryKind? = some k ∧ s.expiresNext n = true) :
    exec (rowFor n k) s = .next s := by
  rw [exec_rowFor_eq]
  rcases whenExpires_cases n k (processing n k) s with ⟨a, ha, hk, next, -⟩ | ⟨-, same⟩
  · exact absurd ⟨a, ha, hk, next⟩ h
  · exact congrArg _ same

/-- Settles O27: a row of a kind takes the due head of that kind and nothing else. -/
theorem expiriesTakeTheHeadAlone : Obligations.ExpiriesTakeTheHeadAlone := by
  intro s n c hc
  obtain ⟨k, rfl⟩ := exists_rowFor hc
  refine ⟨fun away => exec_rowFor_of_not_next ?_, fun a ha => ⟨fun other => exec_rowFor_of_not_next ?_, ?_⟩⟩
  · rintro ⟨a, -, -, next⟩
    obtain ⟨head, d, hd, le⟩ := (State.expiresNext_iff n s).1 next
    rcases away with notHead | none | ⟨e, he, lt⟩
    · exact notHead head
    · rw [deadlineOf_eq, hd] at none
      cases none
    · rw [deadlineOf_eq, hd] at he
      cases he
      exact absurd le (BitVec.not_le.2 lt)
  · rintro ⟨b, hb, hk, -⟩
    obtain rfl : a = b := Option.some.inj (ha.symm.trans hb)
    exact other (by rw [rowOf_eq, hk]; rfl)
  · intro d row hd due
    rw [rowOf_eq] at row
    obtain ⟨l, hl, same⟩ := Option.map_eq_some_iff.1 row
    obtain rfl := rowFor_injective n same
    rw [deadlineOf_eq] at hd
    exact exec_rowFor_of_next ha hl ((State.expiresNext_iff n s).2 ⟨due.2.1, d, hd, due.2.2⟩)

end Sys2Proof.Proofs
end

section
/-! # Time steps (R8 to R15) -/

namespace Sys2Proof.Proofs
open Sys2Proof.Machine Sys2Proof.Claims

/-! ## Moving a time -/

theorem moved?_isSome (t : Time) (k : Int) : (moved? t k).isSome = true ↔ Fits t k := by
  unfold moved? Fits
  split
  · exact iff_of_true rfl ‹_›
  · exact iff_of_false Bool.false_ne_true ‹_›

theorem toNat_shifted {t : Time} {k : Int} (h : Fits t k) : ((shifted t k).toNat : Int) = t.toNat + k := by
  unfold shifted
  rw [BitVec.toNat_ofInt]
  unfold Fits at h
  omega

theorem stepped_eq_shifted {t : Time} {k : Int} (h : Fits t k) : stepped t k = shifted t k := by
  have moved : moved? t k = some (BitVec.ofNat 64 ((t.toNat : Int) + k).toNat) := if_pos h
  rw [stepped, moved, Option.getD_some]
  apply BitVec.eq_of_toNat_eq
  have := toNat_shifted h
  unfold Fits at h
  rw [BitVec.toNat_ofNat]
  omega

theorem shifted_le_shifted {t u : Time} {k : Int} (ht : Fits t k) (hu : Fits u k) : shifted t k ≤ shifted u k ↔ t ≤ u := by
  have t' := toNat_shifted ht
  have u' := toNat_shifted hu
  rw [BitVec.le_def, BitVec.le_def]
  omega

theorem shifted_eq_endOfTime {t : Time} {k : Int} (h : Fits t k) :
    shifted t k = endOfTime ↔ (t.toNat : Int) + k = 2 ^ 64 - 1 := by
  have moved := toNat_shifted h
  have last := toNat_endOfTime
  constructor
  · intro e
    rw [e] at moved
    omega
  · intro e
    apply BitVec.eq_of_toNat_eq
    omega

/-! ## The range check (R10) -/

theorem movesWithStep_iff (a : Arming) : a.movesWithStep = true ↔ Moves a := by
  unfold Arming.movesWithStep Moves
  cases a.part <;> simp

theorem staysInRange_iff (t : Option Time) (k : Int) : staysInRange t k = true ↔ ∀ x, t = some x → Fits x k := by
  cases t with
  | none => exact iff_of_true rfl fun _ h => nomatch h
  | some x => exact (moved?_isSome x k).trans ⟨fun h _ e => Option.some.inj e ▸ h, fun h => h x rfl⟩

/-- The deadline that a step would move, where it moves, stays in range. -/
def MovingFits (k : Int) (sl : Slot) : Prop :=
  ∀ a d, sl.arming = some a → Moves a → deadlineOf sl = some d → Fits d k

theorem movedDeadline?_fits (sl : Slot) (k : Int) : staysInRange sl.movedDeadline? k = true ↔ MovingFits k sl := by
  rw [staysInRange_iff]
  unfold MovingFits Slot.movedDeadline?
  rw [deadlineOf_eq, Slot.deadline?]
  cases ha : sl.arming with
  | none => exact iff_of_true (fun _ h => nomatch h) fun _ _ h => nomatch h
  | some a =>
    dsimp only
    by_cases hm : a.movesWithStep = true
    · rw [if_pos hm]
      exact ⟨fun h _ d e _ hd => h d (Option.some.inj e ▸ hd), fun h d hd => h a d rfl ((movesWithStep_iff a).1 hm) hd⟩
    · rw [if_neg hm]
      exact iff_of_true (fun _ h => nomatch h) fun _ _ e moves => absurd ((movesWithStep_iff _).2 moves)
        (Option.some.inj e ▸ hm)

theorem stepInRange_iff (k : Int) (s : State) : stepInRange k s = true ↔ StepFits k s := by
  unfold stepInRange StepFits
  rw [Bool.and_eq_true, Bool.and_eq_true, moved?_isSome, Vector.all_eq_true, Vector.all_eq_true, and_assoc]
  refine and_congr_right fun _ => and_congr ?_ ?_
  · exact ⟨fun h n => (movedDeadline?_fits _ k).1 (h n.val n.isLt), fun h i hi => (movedDeadline?_fits _ k).2 (h ⟨i, hi⟩)⟩
  · have line (l : OutputLine) : staysInRange (l.pulseEnd?.map (·.time)) k = true
        ↔ ∀ e, l.drive.bind (·.pulseEnd) = some e → Fits e.time k := by
      rw [staysInRange_iff, OutputLine.pulseEnd?]
      cases l.drive.bind (·.pulseEnd) <;> simp
    exact ⟨fun h n => (line _).1 (h n.val n.isLt), fun h i hi => (line _).2 (h ⟨i, hi⟩)⟩

/-! ## What moves -/

theorem timeBase_step_eq {t : TimeBase} {k : Int} (h : Fits t.now k) :
    t.step k = { t with
      now := shifted t.now k
      counting := if (t.now.toNat : Int) + k = 2 ^ 64 - 1 then .ended
        else if t.counting = .ended then .counting else t.counting } := by
  simp only [TimeBase.step, stepped_eq_shifted h, shifted_eq_endOfTime h]

theorem arming_step_part (k : Int) (a : Arming) :
    (∀ g, a.part = .guard g → (a.step k).part = .guard
        { g with lastRenew := BitVec.ofNat 64 ((g.lastRenew.toNat : Int) + k).toNat })
      ∧ ((∀ g, a.part ≠ .guard g) → (a.step k).part = a.part) := by
  unfold Arming.step
  cases hp : a.part <;> simp [ModePart.step, movedRenew]

theorem arming_step_phase {k : Int} {a : Arming} :
    (¬ Moves a → (a.step k).phase = a.phase) ∧ (Moves a → (a.step k).phase = a.phase.step k) := by
  rw [← movesWithStep_iff]
  exact ⟨fun h => if_neg h, fun h => if_pos h⟩

theorem slotStepped {k : Int} {sl : Slot} (fits : MovingFits k sl) : SlotStepped k sl (sl.step k) := by
  unfold MovingFits at fits
  rw [deadlineOf_eq, Slot.deadline?] at fits
  refine ⟨rfl, rfl, fun h => by rw [Slot.step, h]; rfl, fun a ha => ⟨a.step k, by rw [Slot.step, ha]; rfl,
    ⟨rfl, rfl, rfl, rfl, rfl⟩, (arming_step_part k a).1, (arming_step_part k a).2, arming_step_phase.1, fun moves => ?_⟩⟩
  have moving (d : Time) (hd : a.deadline? = some d) : stepped d k = shifted d k :=
    stepped_eq_shifted (fits a d ha moves (by rw [ha]; exact hd))
  rw [arming_step_phase.2 moves]
  refine ⟨fun d hd => ?armed, fun d hd => ?waiting, fun o left hd => by rw [hd]; rfl⟩
  case armed => rw [hd, Phase.step, moving d (by rw [Arming.deadline?, hd])]
  case waiting =>
    rw [hd, Phase.step]
    cases d with
    | none => rfl
    | some d => rw [Option.map_some, Option.map_some, moving d (by rw [Arming.deadline?, hd])]

/-- The deadline that a step leaves of an arming is the one R11 names. -/
theorem movedTo_iff {k : Int} {sl : Slot} (fits : MovingFits k sl) (armed : sl.arming ≠ none) {d : Option Time} :
    MovedTo sl k d ↔ d = (sl.step k).deadline? := by
  obtain ⟨a, ha⟩ := Option.ne_none_iff_exists'.1 armed
  have after : (sl.step k).deadline? = (a.step k).deadline? := by rw [Slot.step, Slot.deadline?, ha]; rfl
  have before : deadlineOf sl = a.deadline? := by rw [deadlineOf_eq, Slot.deadline?, ha, Option.bind_some]
  unfold MovingFits at fits
  unfold MovedTo
  rw [before] at fits ⊢
  rw [after, ha]
  by_cases moves : Moves a
  · have phase := (arming_step_phase (k := k)).2 moves
    have same : (a.step k).deadline? = a.deadline?.map (shifted · k) := by
      have moving (d : Time) (hd : a.deadline? = some d) : stepped d k = shifted d k :=
        stepped_eq_shifted (fits a d ha moves hd)
      unfold Arming.deadline? at moving ⊢
      rw [phase]
      cases hp : a.phase with
      | armed d => exact congrArg some (moving d (by rw [hp]))
      | waiting d =>
        cases d with
        | none => rfl
        | some d => exact congrArg some (moving d (by rw [hp]))
      | held o r => rfl
    rw [same]
    exact ⟨fun h => (h a rfl).1 moves, fun h b e => Option.some.inj e ▸ ⟨fun _ => h, fun no => absurd moves no⟩⟩
  · have same : (a.step k).deadline? = a.deadline? := by
      unfold Arming.deadline?
      rw [(arming_step_phase (k := k)).1 moves]
    rw [same]
    exact ⟨fun h => (h a rfl).2 moves, fun h b e => Option.some.inj e ▸ ⟨fun yes => absurd yes moves, fun _ => h⟩⟩

theorem line_step_eq {now : Time} {k : Int} {l : OutputLine} (hnow : Fits now k)
    (hends : ∀ e, l.drive.bind (·.pulseEnd) = some e → Fits e.time k) :
    (l.step k).endPulse (stepped now k) = lineStepped now k l := by
  rw [stepped_eq_shifted hnow]
  unfold OutputLine.endPulse OutputLine.step lineStepped
  cases hd : l.drive with
  | none => rfl
  | some d =>
    have ends : ∀ e, d.pulseEnd = some e → Fits e.time k := by rw [hd] at hends; exact hends
    dsimp only [Option.map_some]
    unfold Drive.endPulse Drive.step
    cases he : d.pulseEnd with
    | none =>
      obtain ⟨level, pulseEnd⟩ := d
      cases he
      rfl
    | some e =>
      have fits := ends e he
      simp only [Option.map_some, PulseEnd.step, stepped_eq_shifted fits, shifted_le_shifted fits hnow]

/-! ## The step as a whole -/

/-- Moving the time changes the time base, slots, lines and the deadline list alone. -/
theorem moveTime_frame (k : Int) (s : State) :
    moveTime k s = { s with
      time := (moveTime k s).time, slots := (moveTime k s).slots, lines := (moveTime k s).lines
      deadlineList := (moveTime k s).deadlineList } := rfl

theorem takeDue_time (s : State) : (takeDue s).time = s.time := (takeDue_acts s).still.time

theorem stepBy_of_fits {k : Int} {s : State} (h : StepFits k s) :
    stepBy k s = (takeDue (moveTime k s),
      unnamed .ok (shifted s.time.now k) (BitVec.ofNat 64 (moveTime k s).dueSlots.length) false) := by
  rw [stepBy, if_pos ((stepInRange_iff k s).2 h), takeDue_time, moveTime_time, plain_eq_unnamed, timeBase_step_eq h.1]

theorem stepBy_of_not_fits {k : Int} {s : State} (h : ¬ StepFits k s) :
    stepBy k s = (s, unnamed .timeRange s.time.now 0 false) := by
  rw [stepBy, if_neg (mt (stepInRange_iff k s).1 h), plain_eq_unnamed]

theorem stepTime_valid {r : Request} (h : Unflagged r) (ht : r.timeValue ≠ 0) (s : State) :
    refusal? .stepTime r s = none := by
  obtain ⟨⟨h47, h56⟩, hf⟩ := h
  have fails : step2Fails .stepTime r = false := by simp [step2Fails, hf, h47, h56]
  have time : (r.timeValue == 0) = false := beq_false_of_ne ht
  simp only [refusal?, fails, RequestKind.namesSlot, step4Fails, readsLine, step5Fails, time]
  rfl

theorem exec_stepsBy {r : Request} {s : State} {c : Instr} {k : Int} (harrives : Arrives s) (hr : Unflagged r)
    (hc : StepsBy c k r s) (hk : k ≠ 0) :
    exec c s = .next (responding .ordinary r (stepBy k (taken s)).2 (stepBy k (taken s)).1) := by
  rcases hc with ⟨rfl, rfl⟩ | ⟨rfl, rfl⟩
  · have ht : r.timeValue ≠ 0 := fun h => hk (by rw [h]; rfl)
    rw [exec_of_requestOf (k := .stepTime) rfl harrives, engineTakes_valid (stepTime_valid hr ht _),
      holdResponse_eq_responding]
    rfl
  · have ht : ¬ r.timeValue = (taken s).time.now := fun h => hk (by rw [taken_time] at h; rw [h]; exact Int.sub_self _)
    rw [exec_of_requestOf (k := .setTime) rfl harrives, engineTakes_of_flags_eq_zero rfl hr.1 hr.2, owner, takeSetTime,
      if_neg ht]
    rfl

theorem dueSlots_eq (s : State) : s.dueSlots = dueIn s := by
  unfold State.dueSlots dueIn
  refine List.filter_congr fun n _ => ?_
  rw [State.isDue, deadlineOf_eq]
  cases s.slots[n].deadline? <;> rfl

theorem moveTime_now {k : Int} {s : State} (h : StepFits k s) : (moveTime k s).time.now = shifted s.time.now k := by
  rw [moveTime_time, timeBase_step_eq h.1]

theorem reached_iff {k : Int} {s : State} (h : StepFits k s) {n : SlotNumber} {d : Option Time}
    (moved : MovedTo s.slots[n] k d) :
    (moveTime k s).isDue n = true ↔ ∃ x, s.slots[n].arming ≠ none ∧ d = some x ∧ x ≤ shifted s.time.now k := by
  rw [State.isDue_iff, moveTime_slot, moveTime_now h]
  constructor
  · rintro ⟨x, hx, hle⟩
    have armed : s.slots[n].arming ≠ none := fun idle => by
      rw [Slot.step, Slot.deadline?, idle] at hx
      cases hx
    exact ⟨x, armed, ((movedTo_iff (h.2.1 n) armed).1 moved).trans hx, hle⟩
  · rintro ⟨x, armed, rfl, hle⟩
    exact ⟨x, ((movedTo_iff (h.2.1 n) armed).1 moved).symm, hle⟩

theorem moveTime_dueSlots_length (k : Int) (s : State) :
    (moveTime k s).dueSlots.length = (s.deadlineList.filter (moveTime k s).isDue).length := by
  have perm : (moveTime k s).deadlineList.Perm s.deadlineList := moveTime_deadlineList k s ▸ sortDeadlines_perm _ _
  exact (perm.filter _).length_eq

theorem stepAnswers_of_stepsBy {r : Request} {s : State} {c : Instr} {k : Int} (harrives : Arrives s) (hr : Unflagged r)
    (hc : StepsBy c k r s) (hk : k ≠ 0) : StepAnswers c k r s := by
  rw [StepAnswers, exec_stepsBy harrives hr hc hk]
  refine ⟨fun h => ?_, fun h => ?_⟩
  · rw [stepBy_of_not_fits (s := taken s) h]
    rfl
  · rw [stepBy_of_fits (s := taken s) h]
    refine ⟨_, (moveTime k (taken s)).isDue, rfl, ?_, fun n d moved => reached_iff (s := taken s) h moved, ?_⟩
    · exact (takeDue_time _).trans ((moveTime_time k (taken s)).trans (timeBase_step_eq h.1))
    · rw [moveTime_dueSlots_length k (taken s)]
      have fetch : (takeDue (moveTime k (taken s))).fetch = (taken s).fetch :=
        (takeDue_acts _).still.fetch.trans (moveTime_quiet k _).fetch
      unfold responding
      rw [fetch]
      rfl

theorem toInt_ne_zero {v : BitVec 64} (h : v ≠ 0) : v.toInt ≠ 0 := fun e => h (BitVec.eq_of_toInt_eq (e.trans rfl))

theorem setTimeStepsByTheDifference : SetTimeStepsByTheDifference := by
  intro r s harrives hr
  refine ⟨fun same => ?_, fun other => stepAnswers_of_stepsBy harrives hr (.inr ⟨rfl, rfl⟩) fun e => other ?_⟩
  · rw [exec_of_requestOf (k := .setTime) rfl harrives, engineTakes_of_flags_eq_zero rfl hr.1 hr.2, owner, takeSetTime,
      if_pos (show r.timeValue = (taken s).time.now from same), plain_eq_unnamed]
    rfl
  · apply BitVec.eq_of_toNat_eq
    omega

/-- Settles O7: both requests are steps by an offset, checked whole and then taken. -/
theorem timeStepsAnswerTheirOffset : Obligations.TimeStepsAnswerTheirOffset :=
  ⟨fun _ _ harrives hr ht => stepAnswers_of_stepsBy harrives hr (.inl ⟨rfl, rfl⟩) (toInt_ne_zero ht),
    setTimeStepsByTheDifference⟩

/-! ## The slots that a step reaches (R14) -/

theorem expiryKind?_isSome {a : Arming} (fits : a.phaseFits = true) {d : Time} (hd : a.deadline? = some d) :
    ∃ k, a.expiryKind? = some k := by
  obtain ⟨_, _, _, _, _, part, phase⟩ := a
  cases phase with
  | armed e =>
    cases part with
    | guard g =>
      cases hg : g.stage with
      | normal => exact ⟨.guardWarn, by simp [Arming.expiryKind?, hg]⟩
      | warned => exact ⟨.guardFault, by simp [Arming.expiryKind?, hg]⟩
    | _ => exact ⟨_, rfl⟩
  | waiting e =>
    cases hd
    cases part with
    | waitEdge p => exact ⟨_, rfl⟩
    | _ => cases fits
  | held o k => cases hd

/-- The due slots are taken one after another by their expiry rows, each the due head when its turn comes (R14, R45). -/
theorem takenInOrder {s : State} (hs : Ready s) : TakenInOrder s.dueSlots s (takeDue s) := by
  generalize hl : s.dueSlots = l
  induction l generalizing s with
  | nil => exact takeDue_of_none hl
  | cons n rest ih =>
    obtain ⟨tail, hlist, hdue, -⟩ := head_of_dueSlots hs.list hl
    obtain ⟨d, hd, hle⟩ := (State.isDue_iff n s).1 hdue
    obtain ⟨a, ha, had⟩ := Option.bind_eq_some_iff.1 hd
    obtain ⟨k, hk⟩ := expiryKind?_isSome (hs.slots n a ha).2 had
    refine ⟨a, d, rowFor n k, takeExpiry n s, ⟨ha, ?_, hle⟩, ?_, ?_, ?_, ?_⟩
    · rw [hlist, List.head?_cons]
    · rw [deadlineOf_eq, hd]
    · rw [rowOf_eq, hk]
      rfl
    · exact exec_rowFor_of_next ha hk (expiresNext_of_dueSlots hs.list hl)
    · rw [takeDue_cons hs hl]
      exact ih ((takeExpiry_retimes hs.slots hdue).ready hs) (takeExpiry_dueSlots hs hl)

theorem moveTime_slotStepped {k : Int} {s : State} (h : StepFits k s) (n : SlotNumber) :
    SlotStepped k s.slots[n] (moveTime k s).slots[n] := by
  rw [moveTime_slot]
  exact slotStepped (h.2.1 n)

theorem moveTime_lineStepped {k : Int} {s : State} (h : StepFits k s) (n : LineNumber) :
    (moveTime k s).lines[n] = lineStepped s.time.now k s.lines[n] := by
  rw [moveTime_line]
  exact line_step_eq h.1 (h.2.2 n)

theorem stepMovesWhatItDoesNotReach : StepMovesWhatItDoesNotReach := by
  intro r s c k harrives hr hc hk h unreached
  have none : (moveTime k (taken s)).dueSlots = [] := by
    refine List.filter_eq_nil_iff.2 fun n _ hn => ?_
    obtain ⟨a, ha⟩ : ∃ a, s.slots[n].arming = some a := by
      obtain ⟨d, hd, -⟩ := (State.isDue_iff n _).1 hn
      rw [moveTime_slot, Slot.step, Slot.deadline?] at hd
      obtain ⟨b, hb, -⟩ := Option.bind_eq_some_iff.1 hd
      obtain ⟨a, ha, -⟩ := Option.map_eq_some_iff.1 hb
      exact ⟨a, ha⟩
    have armed : s.slots[n].arming ≠ Option.none := by rw [ha]; nofun
    have moved := (movedTo_iff (h.2.1 n) armed).2 rfl
    obtain ⟨x, -, hx, hle⟩ := (reached_iff (s := taken s) h moved).1 hn
    exact absurd hle (BitVec.not_le.2 (unreached n _ x moved armed hx))
  rw [exec_stepsBy harrives hr hc hk, stepBy_of_fits (s := taken s) h, none, takeDue_of_none none]
  exact ⟨_, rfl, rfl, moveTime_slotStepped (s := taken s) h, moveTime_lineStepped (s := taken s) h⟩

theorem stepTakesWhatItReaches : StepTakesWhatItReaches := by
  intro r s c k harrives hr hc hk h list states ahead
  have ready : Ready (moveTime k (taken s)) := moveTime_ready k ⟨list, (slotsSound_iff s).2 ⟨states, ahead.1⟩⟩
  refine ⟨moveTime k (taken s), takeDue (moveTime k (taken s)), ?_, moveTime_frame k (taken s),
    (moveTime_time k (taken s)).trans (timeBase_step_eq h.1), moveTime_slotStepped (s := taken s) h,
    moveTime_lineStepped (s := taken s) h, ready.list, ?_⟩
  · rw [exec_stepsBy harrives hr hc hk, stepBy_of_fits (s := taken s) h, dueSlots_eq]
    rfl
  · exact dueSlots_eq _ ▸ takenInOrder ready

/-- Settles O8: the parts of a step, and the taking of the slots it reaches. -/
theorem stepTimeMovesDeadlinesAndPulseEnds : Obligations.StepTimeMovesDeadlinesAndPulseEnds :=
  ⟨stepMovesWhatItDoesNotReach, stepTakesWhatItReaches⟩

end Sys2Proof.Proofs
end

section
/-! # Requests that name a slot (R25, R30, R33, R34, R40) -/

namespace Sys2Proof.Proofs
open Sys2Proof.Machine Sys2Proof.Claims

/-! ## A valid request on its way -/

/-- A valid record that arrives is handed to its owning block, whose answer is held (R136, R138, R144). -/
theorem exec_of_valid {c : Instr} {k : RequestKind} {r : Request} {s t : State} {a : Answer}
    {kind : ResponseKind} (hc : requestOf c = some (k, r)) (harrives : Arrives s) (hv : Valid k r s)
    (howner : owner k r (taken s) = (t, a)) (hkind : responseKind k a = kind) :
    exec c s = .next (responding kind r a t) := by
  rw [exec_of_requestOf hc harrives, engineTakes_valid (refusal?_of_valid (s := taken s) hv), holdResponse_eq_responding,
    howner, hkind]

/-- The same for the kinds whose validation ends with step 2. -/
theorem exec_of_unflagged {c : Instr} {k : RequestKind} {r : Request} {s t : State} {a : Answer}
    {kind : ResponseKind} (hc : requestOf c = some (k, r)) (hk : endsAtStep2 k = true) (harrives : Arrives s)
    (hr : Unflagged r) (howner : owner k r (taken s) = (t, a)) (hkind : responseKind k a = kind) :
    exec c s = .next (responding kind r a t) := by
  rw [exec_of_requestOf hc harrives, engineTakes_of_flags_eq_zero hk hr.1 hr.2, howner, hkind]

theorem answerSlot_eq (n : SlotNumber) (status : Status) (a b : BitVec 64) (pending : Bool) (s : State) :
    s.answerSlot n status a b pending = naming n s.slots[n].generation status a b pending := rfl

theorem slotPending_eq (n : SlotNumber) (s : State) : s.slotPending n = pendingOf s.slots[n] := rfl

theorem codeValue_stateCode (sl : Slot) : codeValue sl.stateCode = stateCode sl := by
  unfold Slot.stateCode stateCode
  cases sl.arming with
  | none => rfl
  | some a =>
    obtain ⟨_, _, _, _, _, _, phase⟩ := a
    cases phase with
    | armed d => exact (by decide : codeValue 1 = 1)
    | waiting d => exact (by decide : codeValue 2 = 2)
    | held o k => exact (by decide : codeValue 3 = 3)

theorem stateCode_idle {sl : Slot} (h : sl.arming = none) : stateCode sl = 0 := by
  rw [stateCode, h]

theorem timeAnswer_eq (sl : Slot) : sl.timeAnswer = timeOf sl := by
  unfold Slot.timeAnswer timeOf
  cases sl.arming with
  | none => rfl
  | some a =>
    obtain ⟨_, _, _, _, _, _, phase⟩ := a
    cases phase with
    | armed d => rfl
    | waiting d => cases d <;> rfl
    | held o k => cases k <;> rfl

theorem isStale_iff (r : Request) (n : SlotNumber) (s : State) :
    isStale r n s = true ↔ r.flags.getLsbD 3 = true ∧ r.expectedGen ≠ s.slots[n].generation := by
  rw [isStale, Bool.and_eq_true, bne_iff_ne]
  rfl

/-! ## The action that a record carries -/

/-- The action names the line and the kind that the record's fields do (R24, R67). -/
def NamesAction (r : Request) (x : Action) : Prop :=
  x.line.val = r.outputLine.toNat
    ∧ (r.actionKind = 1 → x.kind = .set) ∧ (r.actionKind = 2 → x.kind = .clear)
    ∧ (r.actionKind = 3 → x.kind = .toggle) ∧ (r.actionKind = 4 → x.kind = .pulseHigh r.pulseWidth)
    ∧ (r.actionKind = 5 → x.kind = .pulseLow r.pulseWidth)

theorem actionKind?_names {r : Request} {k : ActionKind} (h : actionKind? r = some k) :
    (r.actionKind = 1 → k = .set) ∧ (r.actionKind = 2 → k = .clear) ∧ (r.actionKind = 3 → k = .toggle)
      ∧ (r.actionKind = 4 → k = .pulseHigh r.pulseWidth) ∧ (r.actionKind = 5 → k = .pulseLow r.pulseWidth) := by
  unfold actionKind? at h
  have pulse {c : Bool} {x y : ActionKind} (hx : (if c = true then some x else none) = some y) : y = x := by
    split at hx
    · exact (Option.some.inj hx).symm
    · cases hx
  refine ⟨fun e => ?_, fun e => ?_, fun e => ?_, fun e => ?_, fun e => ?_⟩ <;> rw [e] at h
  · exact (Option.some.inj h).symm
  · exact (Option.some.inj h).symm
  · exact (Option.some.inj h).symm
  · exact pulse h
  · exact pulse h

/-- A valid record that carries an action names it (R141). -/
theorem action?_of_valid {k : RequestKind} {r : Request} {s : State} (hv : Valid k r s) (hc : CarriesAction k r) :
    ∃ x, action? r = some x ∧ NamesAction r x := by
  obtain ⟨-, -, hfield, hline⟩ := hv
  obtain ⟨l, hl⟩ : ∃ l : LineNumber, r.outputLine.toNat = l.val := by
    by_contra none
    exact hline ⟨hc, fun n hn => absurd ⟨n, hn⟩ none⟩
  obtain ⟨kind, hkind⟩ : ∃ kind, actionKind? r = some kind := by
    refine Option.ne_none_iff_exists'.1 fun none => hfield (.inl ⟨hc, (actionKind?_eq_none r).1 none⟩)
  refine ⟨{ line := l, kind := kind }, ?_, hl.symm, actionKind?_names hkind⟩
  rw [action?, line?_eq_some hl, hkind]
  rfl

/-! ## ARM refused (R25) -/

theorem mode_waitEdge (r : Request) : Mode.ofCode? r.mode = some .waitEdge ↔ r.mode.toNat = 4 := by
  rcases Mode.ofCode?_cases r.mode with ⟨hm, h⟩ | ⟨hm, h⟩ | ⟨hm, h⟩ | ⟨hm, h⟩ | ⟨hm, h⟩
  case inr.inr.inr.inr => exact iff_of_false (by rw [h]; nofun) (by omega)
  all_goals simp [h, hm]

theorem firstDeadline?_beyond {r : Request} {now : Time} (h : FirstDeadlineBeyond r now) : firstDeadline? r now = none := by
  unfold firstDeadline?
  simp only [mode_waitEdge]
  rcases h with ⟨mode, timeout, beyond⟩ | ⟨mode, start, beyond⟩
  · rw [if_pos mode, if_pos (show hasTimeout r = true from timeout), later?_eq, if_neg (Nat.not_lt.2 beyond)]
    rfl
  · rw [if_neg mode, if_neg (show ¬ startAt r = true from Bool.eq_false_iff.1 start), later?_eq,
      if_neg (Nat.not_lt.2 beyond)]
    rfl

/-- A first deadline in range is the one the model computes (R25). -/
theorem firstDeadline?_eq {r : Request} {now : Time} {deadline : Option Time} (h : FirstDeadline r now deadline) :
    firstDeadline? r now = some deadline := by
  obtain ⟨noTimeout, timeout, at', after⟩ := h
  have placed {k : Nat} (hd : ∃ d, deadline = some d ∧ d.toNat = now.toNat + k) :
      (later? now k).map some = some deadline := by
    obtain ⟨d, rfl, hd⟩ := hd
    rw [later?_eq, if_pos (hd ▸ d.isLt), ← hd, BitVec.ofNat_toNat, BitVec.setWidth_eq]
    rfl
  unfold firstDeadline?
  simp only [mode_waitEdge]
  by_cases mode : r.mode.toNat = 4
  · rw [if_pos mode]
    by_cases flag : hasTimeout r = true
    · rw [if_pos flag]
      exact placed (timeout mode flag)
    · rw [if_neg flag, noTimeout mode (Bool.eq_false_iff.2 flag)]
  · rw [if_neg mode]
    by_cases flag : startAt r = true
    · rw [if_pos flag, at' mode flag]
    · rw [if_neg flag]
      exact placed (after mode (Bool.eq_false_iff.2 flag))

theorem armParts_of_valid {r : Request} {s : State} (hv : Valid .arm r s) :
    ∃ part policy g, modePart? r s.time.now = some part ∧ ReportPolicy.ofCode? r.reportPolicy = some policy
      ∧ group? r.group = some g := by
  have fields := armFields_of_valid (refusal?_of_valid hv)
  rw [armFieldFails, Bool.or_eq_false_iff, Bool.or_eq_false_iff] at fields
  obtain ⟨⟨hpolicy, hgroup⟩, hmode⟩ := fields
  have some_of {α : Type} {o : Option α} (h : o.isNone = false) : ∃ x, o = some x :=
    Option.ne_none_iff_exists'.1 fun e => by rw [e] at h; cases h
  obtain ⟨policy, hpolicy⟩ := some_of hpolicy
  obtain ⟨g, hgroup⟩ := some_of hgroup
  obtain ⟨part, hpart⟩ : ∃ part, modePart? r s.time.now = some part := by
    unfold modePart?
    cases hm : Mode.ofCode? r.mode with
    | none => rw [hm] at hmode; cases hmode
    | some mode =>
      rw [hm] at hmode
      cases mode with
      | once => exact ⟨_, rfl⟩
      | guard => exact ⟨_, rfl⟩
      | repeating =>
        rw [Bool.or_eq_false_iff] at hmode
        obtain ⟨p, hp⟩ := some_of hmode.2
        exact ⟨_, by rw [hp]; rfl⟩
      | waitEdge =>
        simp only [Bool.or_eq_false_iff] at hmode
        obtain ⟨⟨⟨⟨-, hinput⟩, hselect⟩, -⟩, -⟩ := hmode
        obtain ⟨n, hn⟩ := some_of hinput
        obtain ⟨e, he⟩ := some_of hselect
        exact ⟨_, by rw [hn, he]; rfl⟩
  exact ⟨part, policy, g, hpart, hpolicy, hgroup⟩

theorem not_pending {sl : Slot} (h : sl.report.state = .none) : pendingOf sl = false := by
  rw [pendingOf, h]
  rfl

theorem not_busy {sl : Slot} {r : Request} (h : sl.arming = none ∨ r.flags.getLsbD 2 = true) :
    ¬ (sl.arming.isSome && !replaceFlag r) = true := by
  rcases h with h | h
  · rw [h]
    exact Bool.false_ne_true
  · rw [show replaceFlag r = true from h, Bool.not_true, Bool.and_false]
    exact Bool.false_ne_true

section Arm
variable {r : Request} {s : State} {n : SlotNumber} {part : ModePart} {policy : ReportPolicy} {g : GroupNumber}

/-- ARM by the slot it names and the parts its fields read (R25, R26). -/
theorem takeArm_of_parts (hn : Names r n) (hpart : modePart? r s.time.now = some part)
    (hpolicy : ReportPolicy.ofCode? r.reportPolicy = some policy) (hg : group? r.group = some g) :
    takeArm r s =
      if pendingOf s.slots[n] then
        (s, naming n s.slots[n].generation .reportPending (stateCode s.slots[n]) 0 true)
      else if s.slots[n].arming.isSome && !replaceFlag r then
        (s, naming n s.slots[n].generation .slotBusy (stateCode s.slots[n]) 0 false)
      else
        match firstDeadline? r s.time.now with
        | none => (s, naming n s.slots[n].generation .timeRange s.time.now 0 false)
        | some deadline => acceptArm r part policy g deadline n s := by
  unfold takeArm
  rw [slot?_eq_some hn, hpart, hpolicy, hg]
  dsimp only
  rw [codeValue_stateCode]
  rfl

theorem takeArm_of_pending (hv : Valid .arm r s) (hn : Names r n) (pending : s.slots[n].report.state = .pending) :
    takeArm r s = (s, naming n s.slots[n].generation .reportPending (stateCode s.slots[n]) 0 true) := by
  obtain ⟨part, policy, g, hpart, hpolicy, hg⟩ := armParts_of_valid hv
  exact (takeArm_of_parts hn hpart hpolicy hg).trans (if_pos (beq_iff_eq.2 pending))

theorem takeArm_of_busy (hv : Valid .arm r s) (hn : Names r n) (unpending : s.slots[n].report.state = .none)
    (busy : s.slots[n].arming ≠ none) (keep : r.flags.getLsbD 2 = false) :
    takeArm r s = (s, naming n s.slots[n].generation .slotBusy (stateCode s.slots[n]) 0 false) := by
  obtain ⟨part, policy, g, hpart, hpolicy, hg⟩ := armParts_of_valid hv
  have taken : (s.slots[n].arming.isSome && !replaceFlag r) = true := by
    rw [show replaceFlag r = false from keep, Option.isSome_iff_ne_none.2 busy]
    rfl
  rw [takeArm_of_parts hn hpart hpolicy hg, if_neg (Bool.eq_false_iff.1 (not_pending unpending)), if_pos taken]

theorem takeArm_of_free (hn : Names r n) (hpart : modePart? r s.time.now = some part)
    (hpolicy : ReportPolicy.ofCode? r.reportPolicy = some policy) (hg : group? r.group = some g)
    (unpending : s.slots[n].report.state = .none) (free : s.slots[n].arming = none ∨ r.flags.getLsbD 2 = true) :
    takeArm r s = match firstDeadline? r s.time.now with
      | none => (s, naming n s.slots[n].generation .timeRange s.time.now 0 false)
      | some deadline => acceptArm r part policy g deadline n s := by
  rw [takeArm_of_parts hn hpart hpolicy hg, if_neg (Bool.eq_false_iff.1 (not_pending unpending)), if_neg (not_busy free)]

theorem takeArm_of_beyond (hv : Valid .arm r s) (hn : Names r n) (unpending : s.slots[n].report.state = .none)
    (free : s.slots[n].arming = none ∨ r.flags.getLsbD 2 = true) (beyond : FirstDeadlineBeyond r s.time.now) :
    takeArm r s = (s, naming n s.slots[n].generation .timeRange s.time.now 0 false) := by
  obtain ⟨part, policy, g, hpart, hpolicy, hg⟩ := armParts_of_valid hv
  rw [takeArm_of_free hn hpart hpolicy hg unpending free, firstDeadline?_beyond beyond]

end Arm

/-- Settles O10: the checks of R25 in their order. -/
theorem armIsRefusedInOrder : Obligations.ArmIsRefusedInOrder := fun _ s _ harrives hv hn =>
  ⟨fun pending => exec_of_valid rfl harrives hv (takeArm_of_pending (s := taken s) hv hn pending) rfl,
    fun unpending busy keep => exec_of_valid rfl harrives hv (takeArm_of_busy (s := taken s) hv hn unpending busy keep) rfl,
    fun unpending free beyond =>
      exec_of_valid rfl harrives hv (takeArm_of_beyond (s := taken s) hv hn unpending free beyond) rfl⟩

/-! ## CANCEL (R30) -/

theorem report_cancel_of_none {r : Report} (h : r.state = .none) : r.cancel = .empty := by
  rw [Report.cancel, h]

theorem report_cancel_of_pending {r : Report} (h : r.state = .pending) : r.cancel =
    { r with fields := { r.fields with flags := { r.fields.flags with cancelled := true } } } := by
  rw [Report.cancel, h]

theorem cancelSlot_slot (n : SlotNumber) (s : State) :
    (cancelSlot n s).slots[n] = { s.slots[n] with arming := none, report := s.slots[n].report.cancel } := by
  unfold cancelSlot
  dsimp only
  split <;> exact State.putSlot_slot n _ s

theorem cancelSlot_slot_ne {n m : SlotNumber} (s : State) (h : m ≠ n) : (cancelSlot n s).slots[m] = s.slots[m] := by
  unfold cancelSlot
  dsimp only
  split <;> exact State.putSlot_slot_ne _ s h

/-- The write in flight notes that its source has been cancelled (R156). -/
def cancelNote (src : Source) (w : CompletionWrite) : CompletionWrite :=
  if w.carries src then { w with cancelNoted := true } else w

theorem cancelSlot_inFlight (n : SlotNumber) (s : State) : (cancelSlot n s).writer.inFlight =
    if pendingOf s.slots[n] then s.writer.inFlight.map (cancelNote (.slot n)) else s.writer.inFlight := by
  unfold cancelSlot
  dsimp only
  rw [slotPending_eq]
  split <;> rfl

theorem cancelSlot_frame (n : SlotNumber) (s : State) : cancelSlot n s = { s with
    slots := (cancelSlot n s).slots, deadlineList := (cancelSlot n s).deadlineList
    writer := { s.writer with inFlight := (cancelSlot n s).writer.inFlight } } := by
  unfold cancelSlot
  dsimp only
  split <;> rfl

section Cancel
variable {r : Request} {s : State} {n : SlotNumber}

/-- The request is stale: MATCH_GEN is set and the slot has another generation (R30, R96). -/
def Stale (r : Request) (n : SlotNumber) (s : State) : Prop :=
  r.flags.getLsbD 3 = true ∧ r.expectedGen ≠ s.slots[n].generation

theorem takeCancel_of_stale (hn : Names r n) (stale : Stale r n s) :
    takeCancel r s = (s, naming n s.slots[n].generation .stale (stateCode s.slots[n]) 0 (pendingOf s.slots[n])) := by
  unfold takeCancel
  rw [slot?_eq_some hn]
  dsimp only
  rw [if_pos ((isStale_iff r n s).2 stale), codeValue_stateCode]
  rfl

theorem takeCancel_of_idle (hn : Names r n) (stale : ¬ Stale r n s) (idle : s.slots[n].arming = none) :
    takeCancel r s = (s, naming n s.slots[n].generation .notArmed 0 0 (pendingOf s.slots[n])) := by
  unfold takeCancel
  rw [slot?_eq_some hn]
  dsimp only
  rw [if_neg (mt (isStale_iff r n s).1 stale), if_pos (by rw [idle]; rfl), codeValue_stateCode, stateCode_idle idle]
  rfl

theorem takeCancel_of_armed (hn : Names r n) (stale : ¬ Stale r n s) (armed : s.slots[n].arming ≠ none) :
    takeCancel r s = (cancelSlot n s, naming n s.slots[n].generation .ok (stateCode s.slots[n]) (timeOf s.slots[n])
      (pendingOf s.slots[n])) := by
  unfold takeCancel
  rw [slot?_eq_some hn]
  dsimp only
  rw [if_neg (mt (isStale_iff r n s).1 stale), if_neg (by rw [Option.isNone_iff_eq_none]; exact armed),
    codeValue_stateCode, timeAnswer_eq]
  rfl

end Cancel

/-- Settles O12: the cases of R30 in their order. -/
theorem cancelEndsAnArming : Obligations.CancelEndsAnArming := by
  intro r s n harrives hv hn
  refine ⟨fun stale => exec_of_valid rfl harrives hv (takeCancel_of_stale (s := taken s) hn stale) rfl,
    fun stale idle => exec_of_valid rfl harrives hv (takeCancel_of_idle (s := taken s) hn stale idle) rfl,
    fun stale armed => ⟨_, exec_of_valid rfl harrives hv (takeCancel_of_armed (s := taken s) hn stale armed) rfl, ?_,
      fun m hm => cancelSlot_slot_ne (taken s) hm, ?_, ?_, fun unpending => ⟨?_, ?_⟩, fun pending => ⟨?_, ?_⟩⟩⟩
  · rw [cancelSlot_frame n (taken s)]
    rfl
  · exact congrArg Slot.arming (cancelSlot_slot n (taken s))
  · show (cancelSlot n (taken s)).slots[n].generation = _
    rw [cancelSlot_slot]
    rfl
  · exact (congrArg Slot.report (cancelSlot_slot n (taken s))).trans (report_cancel_of_none unpending)
  · exact (cancelSlot_inFlight n (taken s)).trans (if_neg (Bool.eq_false_iff.1 (not_pending unpending)))
  · exact (congrArg Slot.report (cancelSlot_slot n (taken s))).trans (report_cancel_of_pending pending)
  · exact (cancelSlot_inFlight n (taken s)).trans (if_pos (beq_iff_eq.2 pending))

/-! ## STAGE (R34) -/

section Stage
variable {r : Request} {s : State} {n : SlotNumber}

theorem takeStage_of_idle (hn : Names r n) (idle : s.slots[n].arming = none) :
    takeStage r s = (s, naming n s.slots[n].generation .notArmed 0 0 false) := by
  unfold takeStage
  rw [slot?_eq_some hn]
  dsimp only
  rw [codeValue_stateCode, stateCode_idle idle, idle]
  rfl

theorem takeStage_of_other {a : Arming} (hn : Names r n) (ha : s.slots[n].arming = some a)
    (other : ∀ p, a.part ≠ .repeating p) :
    takeStage r s = (s, naming n s.slots[n].generation .wrongMode (stateCode s.slots[n]) 0 false) := by
  unfold takeStage
  rw [slot?_eq_some hn]
  dsimp only
  rw [codeValue_stateCode, ha]
  dsimp only
  cases hp : a.part with
  | repeating p => exact absurd hp (other p)
  | _ => rfl

theorem takeStage_of_repeating {a : Arming} {p : RepeatPart} (hn : Names r n) (ha : s.slots[n].arming = some a)
    (hp : a.part = .repeating p) :
    takeStage r s = (s.putArming n (some { a with part := .repeating { p with staged := some (stagedOf r) } }),
      naming n s.slots[n].generation .ok (if p.staged = none then 0 else 1) 0 false) := by
  unfold takeStage
  rw [slot?_eq_some hn]
  dsimp only
  rw [ha]
  dsimp only
  rw [hp]
  dsimp only
  have staged : boolValue p.staged.isSome = if p.staged = none then 0 else 1 := by cases p.staged <;> rfl
  rw [staged]
  rfl

end Stage

theorem armAction_of_hasAction {r : Request} (h : r.flags.getLsbD 4 = true) : armAction r = action? r := if_pos h

theorem armAction_of_not_hasAction {r : Request} (h : r.flags.getLsbD 4 = false) : armAction r = none :=
  if_neg (Bool.eq_false_iff.1 h)

/-- Settles O14: the staged change of the record, on a REPEAT slot alone. -/
theorem stageRecordsItsChange : Obligations.StageRecordsItsChange := by
  intro r s n harrives hv hn
  refine ⟨fun idle => exec_of_valid rfl harrives hv (takeStage_of_idle (s := taken s) hn idle) rfl,
    fun a ha other => exec_of_valid rfl harrives hv (takeStage_of_other (s := taken s) hn ha other) rfl,
    fun a p ha hp => ⟨_, stagedOf r, exec_of_valid rfl harrives hv (takeStage_of_repeating (s := taken s) hn ha hp) rfl,
      rfl, fun m hm => State.putArming_slot_ne _ (taken s) hm, State.putArming_slot n _ (taken s), rfl, rfl, ?_, ?_, ?_⟩⟩
  · exact fun noAction => if_neg (Bool.eq_false_iff.1 noAction)
  · intro named removed
    refine (if_pos named).trans ?_
    rw [armAction_of_not_hasAction removed]
  · intro named replaced
    obtain ⟨x, hx, names⟩ := action?_of_valid hv (.inr (.inl ⟨rfl, named, replaced⟩))
    refine ⟨x, (if_pos named).trans ?_, names⟩
    rw [armAction_of_hasAction replaced, hx]

/-! ## QUERY_SLOT (R40, R167) -/

/-- A byte below is skipped. -/
theorem extract_append_high {v : Nat} (x : BitVec v) (y : BitVec 8) (start len : Nat) :
    (x ++ y).extractLsb' (start + 8) len = x.extractLsb' start len := by
  rw [BitVec.extractLsb'_append_eq_of_le (Nat.le_add_left 8 start), Nat.add_sub_cancel]

/-- The bytes of a value B (R167). -/
theorem bytes_of_append (origin staged : BitVec 8) (limit : BitVec 16) (stage present mode state : BitVec 8) :
    let b := origin ++ staged ++ limit ++ stage ++ present ++ mode ++ state
    b.extractLsb' 0 8 = state ∧ b.extractLsb' 8 8 = mode ∧ b.extractLsb' 16 8 = present ∧ b.extractLsb' 24 8 = stage
      ∧ b.extractLsb' 32 16 = limit ∧ b.extractLsb' 48 8 = staged ∧ b.extractLsb' 56 8 = origin := by
  have above (start len : Nat) : (origin ++ staged ++ limit ++ stage ++ present ++ mode ++ state).extractLsb'
    (start + 32) len
      = (origin ++ staged ++ limit).extractLsb' start len :=
    (extract_append_high _ state (start + 24) len).trans ((extract_append_high _ mode (start + 16) len).trans
      ((extract_append_high _ present (start + 8) len).trans (extract_append_high _ stage start len)))
  refine ⟨BitVec.extractLsb'_append_eq_right, ?mode, ?present, ?stage, ?limit, ?staged, ?origin⟩
  case mode => exact (extract_append_high _ state 0 8).trans BitVec.extractLsb'_append_eq_right
  case present =>
    exact (extract_append_high _ state 8 8).trans
      ((extract_append_high _ mode 0 8).trans BitVec.extractLsb'_append_eq_right)
  case stage =>
    exact (extract_append_high _ state 16 8).trans ((extract_append_high _ mode 8 8).trans
      ((extract_append_high _ present 0 8).trans BitVec.extractLsb'_append_eq_right))
  case limit => exact (above 0 16).trans BitVec.extractLsb'_append_eq_right
  case staged =>
    exact (above 16 8).trans
      ((BitVec.extractLsb'_append_eq_of_le (Nat.le_refl 16)).trans BitVec.extractLsb'_append_eq_right)
  case origin =>
    exact (above 24 8).trans ((BitVec.extractLsb'_append_eq_of_le (by decide)).trans BitVec.extractLsb'_append_eq_left)

theorem querySlot_valid {r : Request} (h : Unflagged r) {n : SlotNumber} (hn : Names r n) (s : State) :
    refusal? .querySlot r s = none := by
  obtain ⟨⟨h47, h56⟩, hf⟩ := h
  have fails : step2Fails .querySlot r = false := by simp [step2Fails, hf, h47, h56]
  simp [refusal?, fails, slot?_eq_some hn, step4Fails, readsLine, step5Fails]

theorem takeQuerySlot_eq {r : Request} {n : SlotNumber} (hn : Names r n) (s : State) :
    takeQuerySlot r s = (s, naming n s.slots[n].generation .ok (timeOf s.slots[n]) (queryValue s.slots[n])
      (pendingOf s.slots[n])) := by
  unfold takeQuerySlot
  rw [slot?_eq_some hn]
  dsimp only
  rw [timeAnswer_eq]
  rfl

theorem queryValue_armed {sl : Slot} {a : Arming} (h : sl.arming = some a) : queryValue sl =
    a.phase.heldFromCode ++ (if a.part.hasStaged then 1#8 else 0#8) ++ a.part.limitLeft ++ a.part.stageCode
      ++ (if a.phase.heldTime.isSome then 1#8 else 0#8) ++ a.part.code ++ a.phase.code := by
  rw [queryValue, h]

theorem queryValue_idle {sl : Slot} (h : sl.arming = none) : queryValue sl = HeldFrom.armed.code ++ 0#56 := by
  rw [queryValue, h]

theorem queryValue_state (sl : Slot) : ((queryValue sl).extractLsb' 0 8).zeroExtend 64 = stateCode sl := by
  have code : ((queryValue sl).extractLsb' 0 8) = sl.stateCode := by
    unfold Slot.stateCode
    cases ha : sl.arming with
    | none =>
      rw [queryValue_idle ha]
      decide
    | some a =>
      rw [queryValue_armed ha]
      exact (bytes_of_append ..).1
  rw [code, ← codeValue_stateCode]
  apply BitVec.eq_of_toNat_eq
  rw [codeValue, toNat_append_eq_add, BitVec.toNat_setWidth]
  have := sl.stateCode.isLt
  simp only [BitVec.toNat_ofNat]
  omega

/-- Settles O17: the value B that the model packs, byte by byte. -/
theorem querySlotAnswersTheRecord : Obligations.QuerySlotAnswersTheRecord := by
  intro r s n harrives hr hn
  refine ⟨queryValue s.slots[n], ?_, queryValue_state _, fun idle => ?_, fun a ha => ?_⟩
  · rw [exec_of_requestOf (k := .querySlot) rfl harrives, engineTakes_valid (querySlot_valid hr hn _),
      holdResponse_eq_responding, owner, takeQuerySlot_eq hn]
    rfl
  · rw [queryValue_idle idle]
    decide
  · rw [queryValue_armed ha]
    obtain ⟨-, mode, present, stage, limit, staged, origin⟩ := bytes_of_append a.phase.heldFromCode
      (if a.part.hasStaged then 1#8 else 0#8) a.part.limitLeft a.part.stageCode
      (if a.phase.heldTime.isSome then 1#8 else 0#8) a.part.code a.phase.code
    rw [mode, present, stage, limit, staged, origin]
    refine ⟨fun hp => ?_, fun p hp => ?_, fun g hp => ?_, fun e hp => ?_, ?_, fun k hk => ?_, fun hk => ?_⟩
    · rw [hp]; decide
    · rw [hp]
      refine ⟨rfl, rfl, rfl, ?_⟩
      cases hs : p.staged <;> simp [ModePart.hasStaged, hs]
    · rw [hp]
      refine ⟨rfl, rfl, rfl, ?_⟩
      cases hs : g.stage <;> simp [ModePart.stageCode, GuardStage.code, hs]
    · rw [hp]
      exact ⟨rfl, rfl, rfl, rfl⟩
    · cases a.phase.heldTime <;> simp
    · rw [hk]; rfl
    · cases hp : a.phase with
      | armed d => rfl
      | waiting d => rfl
      | held o k =>
        cases o with
        | armed => rfl
        | waiting => exact absurd hp (hk k)

end Sys2Proof.Proofs
end

section
/-! # ARM accepted (R20, R26 to R28, R46) -/

namespace Sys2Proof.Proofs
open Sys2Proof.Machine Sys2Proof.Claims

/-! ## The record of the slot, from the request -/

theorem ne_of_toNat {b c : Byte} {k : Nat} (h : b.toNat = k) (hc : c.toNat ≠ k) : b ≠ c := fun e => hc (e ▸ h)

theorem policy_of_ofCode? {b : Byte} {policy : ReportPolicy} (h : ReportPolicy.ofCode? b = some policy) :
    policy = if b = 0 then .every else if b = 1 then .final else .none := by
  rcases ReportPolicy.ofCode?_cases b with ⟨hb, hp⟩ | ⟨hb, hp⟩ | ⟨hb, hp⟩ | ⟨hb, hp⟩
  · obtain rfl := Option.some.inj (hp.symm.trans h)
    exact (if_pos (BitVec.eq_of_toNat_eq hb)).symm
  · obtain rfl := Option.some.inj (hp.symm.trans h)
    rw [if_neg (ne_of_toNat hb (by decide)), if_pos (BitVec.eq_of_toNat_eq hb)]
  · obtain rfl := Option.some.inj (hp.symm.trans h)
    rw [if_neg (ne_of_toNat hb (by decide)), if_neg (ne_of_toNat hb (by decide))]
  · cases hp.symm.trans h

theorem late_of_ofCode? {b : Byte} {late : LatePolicy} (h : LatePolicy.ofCode? b = some late) :
    late = if b = 0 then .onGrid else .restart := by
  rcases LatePolicy.ofCode?_cases b with ⟨hb, hp⟩ | ⟨hb, hp⟩ | ⟨hb, hp⟩
  · obtain rfl := Option.some.inj (hp.symm.trans h)
    exact (if_pos (BitVec.eq_of_toNat_eq hb)).symm
  · obtain rfl := Option.some.inj (hp.symm.trans h)
    exact (if_neg (ne_of_toNat hb (by decide))).symm
  · cases hp.symm.trans h

theorem select_of_ofCode? {b : Byte} {select : EdgeSelect} (h : EdgeSelect.ofCode? b = some select) :
    select = if b = 1 then .rise else if b = 2 then .fall else .any := by
  rcases EdgeSelect.ofCode?_cases b with ⟨hb, hp⟩ | ⟨hb, hp⟩ | ⟨hb, hp⟩ | ⟨hb, hp⟩
  · obtain rfl := Option.some.inj (hp.symm.trans h)
    exact (if_pos (BitVec.eq_of_toNat_eq hb)).symm
  · obtain rfl := Option.some.inj (hp.symm.trans h)
    rw [if_neg (ne_of_toNat hb (by decide)), if_pos (BitVec.eq_of_toNat_eq hb)]
  · obtain rfl := Option.some.inj (hp.symm.trans h)
    rw [if_neg (ne_of_toNat hb (by decide)), if_neg (ne_of_toNat hb (by decide))]
  · cases hp.symm.trans h

theorem val_of_input? {b : Byte} {n : InputNumber} (h : input? b = some n) : n.val = b.toNat := by
  unfold input? at h
  split at h
  · exact congrArg Fin.val (Option.some.inj h).symm
  · cases h

theorem armPart_of_modePart? {r : Request} {now : Time} {part : ModePart} (h : modePart? r now = some part) :
    ArmPart r now part := by
  unfold modePart? at h
  unfold ArmPart
  rcases Mode.ofCode?_cases r.mode with ⟨hm, hc⟩ | ⟨hm, hc⟩ | ⟨hm, hc⟩ | ⟨hm, hc⟩ | ⟨hm, hc⟩ <;> rw [hc] at h
  · obtain rfl := Option.some.inj h
    exact ⟨fun _ => rfl, fun e => by omega, fun e => by omega, fun e => by omega⟩
  · obtain ⟨late, hlate, rfl⟩ := Option.map_eq_some_iff.1 h
    refine ⟨fun e => by omega, fun _ => ?_, fun e => by omega, fun e => by omega⟩
    rw [late_of_ofCode? hlate]
  · obtain rfl := Option.some.inj h
    exact ⟨fun e => by omega, fun e => by omega, fun _ => rfl, fun e => by omega⟩
  · obtain ⟨n, hn, h⟩ := Option.bind_eq_some_iff.1 h
    obtain ⟨select, hselect, rfl⟩ := Option.map_eq_some_iff.1 h
    exact ⟨fun e => by omega, fun e => by omega, fun e => by omega,
      fun _ => ⟨_, rfl, val_of_input? hn, select_of_ofCode? hselect, rfl, rfl, rfl, rfl⟩⟩
  · cases h

theorem mode_guard (r : Request) : Mode.ofCode? r.mode = some .guard ↔ r.mode.toNat = 3 := by
  rcases Mode.ofCode?_cases r.mode with ⟨hm, h⟩ | ⟨hm, h⟩ | ⟨hm, h⟩ | ⟨hm, h⟩ | ⟨hm, h⟩
  case inr.inr.inr.inr => exact iff_of_false (by rw [h]; nofun) (by omega)
  all_goals simp [h, hm]

theorem armAnchoring_eq (r : Request) :
    armAnchoring r = if r.mode.toNat ≠ 3 ∧ r.flags.getLsbD 1 = true then .abs else .rel := by
  unfold armAnchoring
  simp only [mode_guard]
  by_cases guard : r.mode.toNat = 3
  · rw [if_pos guard, if_neg fun h => h.1 guard]
  · rw [if_neg guard]
    by_cases flag : r.flags.getLsbD 1 = true
    · rw [if_pos (show anchorAbs r = true from flag), if_pos ⟨guard, flag⟩]
    · rw [if_neg (show ¬ anchorAbs r = true from flag), if_neg fun h => flag h.2]

/-- The fields of an arming set up from a valid record (R20, R21, R24, R26). -/
theorem armedFrom {r : Request} {s : State} (hv : Valid .arm r s) {policy : ReportPolicy} {g : GroupNumber}
    (hpolicy : ReportPolicy.ofCode? r.reportPolicy = some policy) (part : ModePart) (phase : Phase) :
    ArmedFrom r g { anchoring := armAnchoring r, action := armAction r, policy := policy, group := g, tag := r.tag
                    part := part, phase := phase } := by
  refine ⟨rfl, rfl, armAnchoring_eq r, policy_of_ofCode? hpolicy, armAction_of_not_hasAction, fun h => ?_⟩
  obtain ⟨x, hx, names⟩ := action?_of_valid hv (.inl ⟨rfl, h⟩)
  exact ⟨x, (armAction_of_hasAction h).trans hx, names⟩

/-! ## The first state (part 4 of R26) -/

theorem mode_of_modePart? {r : Request} {now : Time} {part : ModePart} (h : modePart? r now = some part) :
    r.mode.toNat = 1 ∨ r.mode.toNat = 2 ∨ r.mode.toNat = 3 ∨ r.mode.toNat = 4 := by
  unfold modePart? at h
  rcases Mode.ofCode?_cases r.mode with ⟨hm, -⟩ | ⟨hm, -⟩ | ⟨hm, -⟩ | ⟨hm, -⟩ | ⟨hm, hc⟩
  case inr.inr.inr.inr =>
    rw [hc] at h
    cases h
  all_goals simp [hm]

/-- The phase of a slot that a HOLD may suspend differs from that of the same slot running. -/
theorem firstPhase_eq {r : Request} {now : Time} {part : ModePart} (h : modePart? r now = some part) (group : GroupState)
    (deadline : Option Time) :
    ((group = .running ∨ r.mode.toNat = 3) →
        firstPhase group part deadline now = if r.mode.toNat = 4 then .waiting deadline else .armed (deadline.getD now))
      ∧ (group = .held → r.mode.toNat ≠ 3 →
        firstPhase group part deadline now
          = .held (if r.mode.toNat = 4 then .waiting else .armed) (deadline.map (ticksTo now))) := by
  obtain ⟨once, repeating, guard, edge⟩ := armPart_of_modePart? h
  unfold firstPhase
  rcases mode_of_modePart? h with mode | mode | mode | mode
  · rw [once mode]
    cases group <;> simp [ModePart.isGuard, heldPhase, runningPhase, mode]
  · rw [repeating mode]
    cases group <;> simp [ModePart.isGuard, heldPhase, runningPhase, mode]
  · rw [guard mode]
    cases group <;> simp [ModePart.isGuard, runningPhase, mode]
  · obtain ⟨e, rfl, -⟩ := edge mode
    cases group <;> simp [ModePart.isGuard, heldPhase, runningPhase, mode]

/-! ## Placed without an expiry -/

theorem acceptArm_eq (r : Request) (part : ModePart) (policy : ReportPolicy) (g : GroupNumber) (deadline : Option Time)
    (n : SlotNumber) (s : State) :
    acceptArm r part policy g deadline n s =
      (takeAtInsertion n (s.putSlot n (armedSlot r part policy g deadline n s)),
        naming n (s.slots[n].generation + 1) .ok (stateCode s.slots[n]) (deadline.getD 0) false) := by
  have generation : (takeAtInsertion n (s.putSlot n (armedSlot r part policy g deadline n s))).slots[n].generation
      = s.slots[n].generation + 1 := by
    rw [(takeAtInsertion_acts n _).still.generation n, State.putSlot_slot]
    rfl
  unfold acceptArm
  dsimp only
  rw [answerSlot_eq, generation, codeValue_stateCode]

/-- An arming of a valid record stands in the list with the record's first deadline, unless it is placed in HELD. -/
theorem firstPhase_deadline? {r : Request} {now : Time} {part : ModePart} (hpart : modePart? r now = some part)
    {deadline : Option Time} (hdeadline : firstDeadline? r now = some deadline) (group : GroupState) {a : Arming}
    (ha : a.phase = firstPhase group part deadline now) :
    a.deadline? = if group = .held ∧ r.mode.toNat ≠ 3 then none else deadline := by
  obtain ⟨running, held⟩ := firstPhase_eq hpart group deadline
  by_cases h : group = .held ∧ r.mode.toNat ≠ 3
  · rw [if_pos h, Arming.deadline?, ha, held h.1 h.2]
  · have runs : group = .running ∨ r.mode.toNat = 3 := by
      cases group with
      | running => exact .inl rfl
      | held => exact .inr (Decidable.not_not.1 fun no => h ⟨rfl, no⟩)
    rw [if_neg h, Arming.deadline?, ha, running runs]
    by_cases mode : r.mode.toNat = 4
    · rw [if_pos mode]
    · obtain ⟨d, rfl⟩ := Option.isSome_iff_exists.1 (firstDeadline?_isSome hdeadline (mt (mode_waitEdge r).1 mode))
      rw [if_neg mode]
      rfl

section Accepted
variable {r : Request} {s : State} {part : ModePart} {policy : ReportPolicy} {g : GroupNumber} {deadline : Option Time}
  {n : SlotNumber}

theorem armedSlot_isDue (hpart : modePart? r s.time.now = some part)
    (hdeadline : firstDeadline? r s.time.now = some deadline) :
    (s.putSlot n (armedSlot r part policy g deadline n s)).isDue n = true
      ↔ ¬ (s.groups[g] = .held ∧ r.mode.toNat ≠ 3) ∧ ∃ d, deadline = some d ∧ d ≤ s.time.now := by
  rw [State.isDue_iff, State.putSlot_slot]
  have same : (armedSlot r part policy g deadline n s).deadline?
      = if s.groups[g] = .held ∧ r.mode.toNat ≠ 3 then none else deadline :=
    firstPhase_deadline? hpart hdeadline s.groups[g] rfl
  rw [same]
  by_cases h : s.groups[g] = .held ∧ r.mode.toNat ≠ 3
  · rw [if_pos h]
    exact iff_of_false (fun ⟨d, hd, _⟩ => nomatch hd) fun no => no.1 h
  · rw [if_neg h]
    exact ⟨fun due => ⟨h, due⟩, fun due => due.2⟩

theorem acceptArm_of_ahead (hpart : modePart? r s.time.now = some part)
    (hdeadline : firstDeadline? r s.time.now = some deadline)
    (ahead : (s.groups[g] = .held ∧ r.mode.toNat ≠ 3) ∨ ∀ d, deadline = some d → s.time.now < d) :
    acceptArm r part policy g deadline n s =
      (s.putSlot n (armedSlot r part policy g deadline n s),
        naming n (s.slots[n].generation + 1) .ok (stateCode s.slots[n]) (deadline.getD 0) false) := by
  have notDue : ¬ (s.putSlot n (armedSlot r part policy g deadline n s)).isDue n = true := by
    rw [armedSlot_isDue hpart hdeadline]
    rintro ⟨running, d, rfl, hle⟩
    rcases ahead with held | ahead
    · exact running held
    · exact absurd hle (BitVec.not_le.2 (ahead d rfl))
  rw [acceptArm_eq, takeAtInsertion, if_neg notDue]

theorem acceptArm_of_due {d : Time} (hpart : modePart? r s.time.now = some part)
    (hdeadline : firstDeadline? r s.time.now = some (some d)) (running : s.groups[g] = .running ∨ r.mode.toNat = 3)
    (hle : d ≤ s.time.now) :
    acceptArm r part policy g (some d) n s =
      (takeExpiry n (s.putSlot n (armedSlot r part policy g (some d) n s)),
        naming n (s.slots[n].generation + 1) .ok (stateCode s.slots[n]) d false) := by
  have due : (s.putSlot n (armedSlot r part policy g (some d) n s)).isDue n = true := by
    rw [armedSlot_isDue hpart hdeadline]
    refine ⟨fun held => ?_, d, rfl, hle⟩
    rcases running with running | guard
    · rw [running] at held
      cases held.1
    · exact held.2 guard
  rw [acceptArm_eq, takeAtInsertion, if_pos due]
  rfl

theorem takeArm_of_deadline (hn : Names r n) (hpart : modePart? r s.time.now = some part)
    (hpolicy : ReportPolicy.ofCode? r.reportPolicy = some policy) (hg : group? r.group = some g)
    (unpending : s.slots[n].report.state = .none) (free : s.slots[n].arming = none ∨ r.flags.getLsbD 2 = true)
    (hdeadline : firstDeadline? r s.time.now = some deadline) :
    takeArm r s = acceptArm r part policy g deadline n s := by
  rw [takeArm_of_free hn hpart hpolicy hg unpending free, hdeadline]

end Accepted

/-- Settles O9: the slot is set up from the record; its deadline lies ahead or it is placed in HELD, so nothing is taken. -/
theorem armSetsUpTheSlot : Obligations.ArmSetsUpTheSlot := by
  intro r s n g deadline harrives hv hn hg unpending free hfirst ahead
  obtain ⟨part, policy, -, hpart, hpolicy, -⟩ := armParts_of_valid hv
  have hdeadline := firstDeadline?_eq hfirst
  have take := (takeArm_of_deadline (s := taken s) hn hpart hpolicy (group?_eq_some hg) unpending free hdeadline).trans
    (acceptArm_of_ahead (s := taken s) hpart hdeadline ahead)
  obtain ⟨running, held⟩ := firstPhase_eq hpart s.groups[g] deadline
  refine ⟨_, _, exec_of_valid rfl harrives hv take rfl, rfl, State.putSlot_slot n _ (taken s),
    fun m hm => State.putSlot_slot_ne _ (taken s) hm, armPart_of_modePart? hpart, armedFrom hv hpolicy part _,
    fun runs => ⟨fun mode => ?_, fun mode d hd => ?_⟩, fun isHeld mode => held isHeld mode⟩
  · exact (running runs).trans (if_pos mode)
  · subst hd
    exact (running runs).trans (if_neg mode)

theorem anyArmIsTakenAtOnce : AnyArmIsTakenAtOnce := by
  intro r s n g d harrives hv hn hg unpending free hfirst runs hle
  obtain ⟨part, policy, -, hpart, hpolicy, -⟩ := armParts_of_valid hv
  have hdeadline := firstDeadline?_eq hfirst
  have take := (takeArm_of_deadline (s := taken s) hn hpart hpolicy (group?_eq_some hg) unpending free hdeadline).trans
    (acceptArm_of_due (s := taken s) hpart hdeadline runs hle)
  exact ⟨_, armPart_of_modePart? hpart, armedFrom hv hpolicy part _, (firstPhase_eq hpart s.groups[g] (some d)).1 runs,
    exec_of_valid rfl harrives hv take rfl⟩

/-! ## A ONCE arming taken at once -/

theorem takeExpiry_once {n : SlotNumber} {a : Arming} {d : Time} {s : State} (ha : s.slots[n].arming = some a)
    (hpart : a.part = .once) (hphase : a.phase = .armed d) :
    takeExpiry n s = onceExpiry n a (decide (d < s.time.now)) s := by
  have kind : a.expiryKind? = some .once := by simp only [Arming.expiryKind?, hpart, hphase]
  rw [takeExpiry_eq_processing ha kind, isLate_eq (deadline?_armed hphase)]
  rfl

theorem recordEvent_slot_ne {n m : SlotNumber} (h : m ≠ n) (o : Occurrence) (makesPending : Bool) (s : State) :
    (s.recordEvent (.slot n) o makesPending).slots[m] = s.slots[m] := by
  obtain ⟨arming, generation⟩ := State.recordEvent_slot (.slot n) o makesPending s m
  have report : (s.recordEvent (.slot n) o makesPending).slots[m].report = s.slots[m].report :=
    State.recordEvent_report_ne (src' := .slot m) o makesPending s fun e => h (Source.slot.inj e)
  revert arming generation report
  cases (s.recordEvent (.slot n) o makesPending).slots[m]
  cases s.slots[m]
  rintro rfl rfl rfl
  rfl

/-- The first event of an arming whose report is empty. -/
theorem recordEvent_of_empty {n : SlotNumber} {s : State} (h : s.slots[n].report = .empty) (o : Occurrence)
    (makesPending : Bool) :
    let t := s.recordEvent (.slot n) o makesPending
    t = { s with
          slots := t.slots
          writer := { s.writer with
            queue := if makesPending then s.writer.queue ++ [.slot n] else s.writer.queue } }
      ∧ t.slots[n].report = { state := if makesPending then .pending else .none
                              fields := ReportFields.empty.coalesce o } := by
  have empty : s.report (.slot n) = .empty := h
  have traffic : (s.recordEvent (.slot n) o makesPending).writer.queue
        = (if makesPending then s.writer.queue ++ [.slot n] else s.writer.queue)
      ∧ (s.recordEvent (.slot n) o makesPending).writer.inFlight = s.writer.inFlight := by
    cases makesPending with
    | false => exact recordEvent_silent (.slot n) o s
    | true => exact recordEvent_joins (by rw [empty]; rfl) o
  have controller : (s.recordEvent (.slot n) o makesPending).writer.controllerEntry = s.writer.controllerEntry :=
    State.recordEvent_report_ne (src' := .controller) o makesPending s nofun
  refine ⟨?_, ?_⟩
  · conv_lhs => rw [State.recordEvent_frame, traffic.1, traffic.2, controller]
  · have report := State.recordEvent_report (.slot n) o makesPending s
    rw [empty] at report
    exact report

theorem not_policy_none (policy : ReportPolicy) {α : Type} (x y : α) :
    (if policy != .none then x else y) = if policy = .none then y else x := by
  cases policy <;> rfl

/-- What the expiry of a ONCE slot without an action records as the first event of its arming. -/
theorem coalesce_once (a : Arming) (late : Bool) {s : State} (h : a.action = none) :
    ReportFields.empty.coalesce (occurs .expiry a { actionFlags a s with final := true, late := late } s) =
      { event := some .expiry, time := s.time.now, tag := a.tag, count := 1
        flags := { final := true, late := late } } := by
  simp only [ReportFields.coalesce, ReportFlags.union, occurs, actionFlags, h, Bool.or_false]
  rfl

/-- The expiry of a ONCE slot whose report is empty and which has no action. -/
theorem onceExpiry_of_empty {n : SlotNumber} {a : Arming} {s : State} (h : s.slots[n].report = .empty)
    (hact : a.action = none) (late : Bool) :
    let t := onceExpiry n a late s
    t = { s with
          slots := t.slots, deadlineList := t.deadlineList
          writer := { s.writer with
            queue := if a.policy = .none then s.writer.queue else s.writer.queue ++ [.slot n] } }
      ∧ (∀ m : SlotNumber, m ≠ n → t.slots[m] = s.slots[m])
      ∧ t.slots[n].arming = none ∧ t.slots[n].generation = s.slots[n].generation
      ∧ t.slots[n].report =
          { state := if a.policy = .none then .none else .pending
            fields := { event := some .expiry, time := s.time.now, tag := a.tag, count := 1
                        flags := { final := true, late := late } } } := by
  have expiry : onceExpiry n a late s = (s.putArming n none).recordEvent (.slot n)
      (occurs .expiry a { actionFlags a s with final := true, late := late } s) (a.policy != .none) := by
    rw [onceExpiry_eq, hact]
    rfl
  have empty : (s.putArming n none).slots[n].report = .empty := by
    rw [State.putArming_slot]
    exact h
  rw [expiry]
  obtain ⟨frame, report⟩ := recordEvent_of_empty empty
    (occurs .expiry a { actionFlags a s with final := true, late := late } s) (a.policy != .none)
  obtain ⟨arming, generation⟩ := State.recordEvent_slot (.slot n)
    (occurs .expiry a { actionFlags a s with final := true, late := late } s) (a.policy != .none) (s.putArming n none) n
  rw [State.putArming_slot] at arming generation
  rw [not_policy_none, State.putArming_writer] at frame
  rw [not_policy_none, coalesce_once a late hact] at report
  refine ⟨?_, fun m hm => ?_, arming, generation, report⟩
  · rw [frame]
    rfl
  · exact (recordEvent_slot_ne hm _ _ _).trans (State.putArming_slot_ne _ s hm)

theorem policy_none_iff {r : Request} {s : State} (hv : Valid .arm r s) {policy : ReportPolicy}
    (h : policy = if r.reportPolicy = 0 then .every else if r.reportPolicy = 1 then .final else .none) :
    policy = .none ↔ r.reportPolicy = 2 := by
  have known : r.reportPolicy.toNat ≤ 2 := by
    by_contra big
    exact hv.2.2.1 (.inr (.inl ⟨rfl, .inr (.inr (.inl (Nat.lt_of_not_le big)))⟩))
  have cases : r.reportPolicy = 0 ∨ r.reportPolicy = 1 ∨ r.reportPolicy = 2 := by bv_omega
  rcases cases with e | e | e <;> rw [h, e] <;> decide

theorem onceArmIsTakenAtOnce : OnceArmIsTakenAtOnce := by
  intro r s n g d harrives hv hn hg mode noAction unpending free hfirst running hle
  obtain ⟨a, part, ⟨-, tag, -, policy, noAct, -⟩, phase, exec⟩ :=
    anyArmIsTakenAtOnce r s n g d harrives hv hn hg unpending free hfirst (.inl running) hle
  rw [if_neg (by omega)] at phase
  have slot := State.putSlot_slot n
    { generation := s.slots[n].generation + 1, arming := some a, report := .empty } (taken s)
  rw [takeExpiry_once (congrArg Slot.arming slot) (part.1 mode) phase] at exec
  obtain ⟨frame, others, arming, generation, report⟩ := onceExpiry_of_empty (congrArg Slot.report slot) (noAct noAction)
    (decide (d < s.time.now))
  rw [slot] at generation
  simp only [policy_none_iff hv policy, tag] at frame report
  refine ⟨_, exec, ?_, fun m hm => ?_, arming, generation, ?_, ?_⟩
  · exact congrArg (responding _ r _) frame
  · exact (others m hm).trans (State.putSlot_slot_ne _ (taken s) hm)
  · exact congrArg Report.state report
  · exact congrArg Report.fields report

/-- Settles O11: the slot is set up and due at its insertion, so its row takes it within the ARM. -/
theorem armTakesAnExpiredDeadlineAtOnce : Obligations.ArmTakesAnExpiredDeadlineAtOnce :=
  ⟨onceArmIsTakenAtOnce, anyArmIsTakenAtOnce⟩

end Sys2Proof.Proofs
end

section
/-! # Requests that go through the slots of groups (R33, R36, R38) -/

namespace Sys2Proof.Proofs
open Sys2Proof.Machine Sys2Proof.Claims

/-! ## Going through slots one after another -/

/-- An operation on one slot of a state at time `now`: it makes `g` of the slot's record and leaves the other records and
the time alone. -/
structure OnSlot (now : Time) (g : Slot → Slot) (f : SlotNumber → State → State) : Prop where
  self : ∀ (n : SlotNumber) (s : State), s.time.now = now → (f n s).slots[n] = g s.slots[n]
  other : ∀ (n m : SlotNumber) (s : State), m ≠ n → (f n s).slots[m] = s.slots[m]
  time : ∀ (n : SlotNumber) (s : State), (f n s).time = s.time

theorem OnSlot.foldl_slot {now : Time} {g : Slot → Slot} {f : SlotNumber → State → State} (h : OnSlot now g f)
    {l : List SlotNumber} (hl : l.Nodup) {s : State} (hs : s.time.now = now) (m : SlotNumber) :
    (l.foldl (fun t n => f n t) s).slots[m] = if m ∈ l then g s.slots[m] else s.slots[m] := by
  induction l generalizing s with
  | nil => rfl
  | cons n l ih =>
    obtain ⟨hn, hl⟩ := List.nodup_cons.1 hl
    rw [List.foldl_cons, ih hl ((congrArg TimeBase.now (h.time n s)).trans hs)]
    by_cases hm : m = n
    · subst hm
      rw [if_neg hn, if_pos List.mem_cons_self, h.self m s hs]
    · rw [h.other n m s hm]
      simp only [List.mem_cons, hm, false_or]

/-- The state `t` differs from `s` in slots, the deadline list and the group table alone. -/
def GroupsFrame (s t : State) : Prop :=
  t = { s with slots := t.slots, deadlineList := t.deadlineList, groups := t.groups }

theorem GroupsFrame.trans {s t u : State} (h : GroupsFrame s t) (k : GroupsFrame t u) : GroupsFrame s u := by
  unfold GroupsFrame at *
  refine k.trans ?_
  rw [h]

theorem putArming_groupsFrame (n : SlotNumber) (a : Option Arming) (s : State) : GroupsFrame s (s.putArming n a) :=
  State.putArming_frame n a s

theorem foldl_groupsFrame {f : SlotNumber → State → State} (h : ∀ n s, GroupsFrame s (f n s)) (l : List SlotNumber)
    {s t : State} (ht : GroupsFrame s t) : GroupsFrame s (l.foldl (fun t n => f n t) t) :=
  List.foldlRecOn (motive := GroupsFrame s) l _ ht fun t ht n _ => ht.trans (h n t)

theorem foldl_groups {f : SlotNumber → State → State} (h : ∀ n s, (f n s).groups = s.groups) (l : List SlotNumber)
    (s : State) : (l.foldl (fun t n => f n t) s).groups = s.groups :=
  List.foldlRecOn (motive := fun t => t.groups = s.groups) l _ rfl fun t ht n _ => (h n t).trans ht

theorem slotsWhere_nodup (p : SlotNumber → Bool) : (slotsWhere p).Nodup := (List.nodup_finRange 256).filter _

theorem count_eq (p : SlotNumber → Bool) : BitVec.ofNat 64 (slotsWhere p).length = count p := rfl

theorem slotsWhere_filter (p q : SlotNumber → Bool) : (slotsWhere p).filter q = slotsWhere fun n => p n && q n := by
  rw [slotsWhere, List.filter_filter]
  exact List.filter_congr fun n _ => Bool.and_comm _ _

theorem slotsWhere_arming (p : Arming → Bool) (s : State) :
    (slotsWhere fun n => match s.slots[n].arming with
      | none => false
      | some a => p a) = slotsWhere fun n => s.slots[n].arming.any p := by
  refine List.filter_congr fun n _ => ?_
  cases s.slots[n].arming <;> rfl

/-! ## CANCEL_GROUP (R33) -/

theorem cancelSlot_onSlot (now : Time) :
    OnSlot now (fun sl => { sl with arming := none, report := sl.report.cancel }) cancelSlot :=
  ⟨fun n s _ => cancelSlot_slot n s, fun _ _ s h => cancelSlot_slot_ne s h, cancelSlot_time⟩

/-- The slots of the groups a request names that are not IDLE (R33). -/
def cancelled (r : Request) (s : State) (n : SlotNumber) : Bool :=
  s.slots[n].arming.any fun a => r.groupMask.getLsbD a.group.val

theorem slotsOfGroups_eq (r : Request) (s : State) : s.slotsOfGroups r = slotsWhere (cancelled r s) :=
  slotsWhere_arming _ s

/-- The write in flight after the slots of a list have been cancelled: it notes the cancel of its source, if its report was
pending. -/
theorem cancelSlots_inFlight {l : List SlotNumber} (hl : l.Nodup) (s : State) :
    (l.foldl (fun t n => cancelSlot n t) s).writer.inFlight = s.writer.inFlight.map fun w =>
      if l.any fun n => pendingOf s.slots[n] && w.carries (.slot n) then { w with cancelNoted := true } else w := by
  induction l generalizing s with
  | nil => simp
  | cons n l ih =>
    obtain ⟨hn, hl⟩ := List.nodup_cons.1 hl
    have others (w : CompletionWrite) : (l.any fun m => pendingOf (cancelSlot n s).slots[m] && w.carries (.slot m))
        = l.any fun m => pendingOf s.slots[m] && w.carries (.slot m) := by
      rw [Bool.eq_iff_iff, List.any_eq_true, List.any_eq_true]
      refine exists_congr fun m => and_congr_right fun hm => ?_
      rw [cancelSlot_slot_ne s fun (e : m = n) => hn (e ▸ hm)]
    rw [List.foldl_cons, ih hl, cancelSlot_inFlight]
    simp only [others, List.any_cons]
    by_cases pending : pendingOf s.slots[n] = true
    · rw [if_pos pending, Option.map_map]
      refine congrArg (Option.map · _) (funext fun w => ?_)
      simp only [Function.comp_apply, cancelNote, pending, Bool.true_and]
      by_cases hc : w.carries (.slot n) = true
      · simp only [hc, if_true, Bool.true_or]
        exact ite_self _
      · simp only [hc, Bool.false_eq_true, if_false, Bool.false_or]
    · rw [if_neg pending]
      simp only [pending, Bool.false_and, Bool.false_or]

/-- The state `t` differs from `s` in slots, the deadline list and the write in flight alone. -/
def CancelFrame (s t : State) : Prop :=
  t = { s with
    slots := t.slots, deadlineList := t.deadlineList, writer := { s.writer with inFlight := t.writer.inFlight } }

theorem CancelFrame.trans {s t u : State} (h : CancelFrame s t) (k : CancelFrame t u) : CancelFrame s u := by
  unfold CancelFrame at *
  refine k.trans ?_
  rw [h]

theorem cancelSlots_frame (l : List SlotNumber) (s : State) : CancelFrame s (l.foldl (fun t n => cancelSlot n t) s) :=
  List.foldlRecOn (motive := CancelFrame s) l _ rfl fun t ht n _ => ht.trans (cancelSlot_frame n t)

theorem takeCancelGroup_eq (r : Request) (s : State) :
    takeCancelGroup r s =
      ((slotsWhere (cancelled r s)).foldl (fun t n => cancelSlot n t) s,
        unnamed .ok (count (cancelled r s)) (count fun n => cancelled r s n && pendingOf s.slots[n]) false) := by
  rw [takeCancelGroup, plain_eq_unnamed, slotsOfGroups_eq]
  simp only [slotPending_eq, slotsWhere_filter, count_eq]

/-- Settles O13: the slots of the named groups are cancelled one after another. -/
theorem cancelGroupEndsItsArmings : Obligations.CancelGroupEndsItsArmings := by
  intro r s harrives hr
  have slot (n : SlotNumber) := (cancelSlot_onSlot s.time.now).foldl_slot (slotsWhere_nodup (cancelled r s))
    (s := taken s) rfl n
  refine ⟨_, exec_of_unflagged rfl rfl harrives hr (takeCancelGroup_eq r (taken s)) rfl, ?_, fun n h => ?_,
    fun n h => ?_, ?_⟩
  · exact congrArg (responding _ r _) (cancelSlots_frame _ (taken s))
  · exact (slot n).trans (if_neg fun hm => Bool.false_ne_true (h.symm.trans (mem_slotsWhere.1 hm)))
  · have after := (slot n).trans (if_pos (mem_slotsWhere.2 h))
    refine ⟨congrArg Slot.arming after, (congrArg Slot.generation after).trans rfl, fun unpending => ?_, fun pending => ?_⟩
    · exact (congrArg Slot.report after).trans (report_cancel_of_none unpending)
    · exact (congrArg Slot.report after).trans (report_cancel_of_pending pending)
  · refine (cancelSlots_inFlight (slotsWhere_nodup (cancelled r s)) (taken s)).trans ?_
    refine congrArg (Option.map · _) (funext fun w => ?_)
    have same : ((slotsWhere (cancelled r s)).any fun n => pendingOf s.slots[n] && w.carries (.slot n))
        = (List.finRange 256).any fun n => cancelled r s n && pendingOf s.slots[n] && w.carries (.slot n) := by
      rw [slotsWhere, List.any_filter]
      simp only [Bool.and_assoc]
    exact if_congr (iff_of_eq (congrArg (· = true) same)) rfl rfl

/-! ## HOLD (R36) -/

theorem setGroups_group (r : Request) (x : GroupState) (s : State) (g : GroupNumber) :
    (setGroups r x s).groups[g] = if r.groupMask.getLsbD g.val then x else s.groups[g] := by
  simp [setGroups, namesGroup]

theorem setGroups_groupsFrame (r : Request) (x : GroupState) (s : State) : GroupsFrame s (setGroups r x s) := rfl

/-- What HOLD makes of a slot at time `now`. -/
def heldSlot (now : Time) (sl : Slot) : Slot :=
  { sl with arming := sl.arming.map fun a => { a with phase := a.phase.hold now } }

theorem holdSlot_onSlot (now : Time) : OnSlot now (heldSlot now) holdSlot where
  self n s hs := by rw [holdSlot, State.putArming_slot, hs]; rfl
  other n m s h := State.putArming_slot_ne _ s h
  time n s := State.putArming_time n _ s

/-- The slots that HOLD suspends (part 2 of R36). -/
def suspends (r : Request) (s : State) (n : SlotNumber) : Bool :=
  s.slots[n].arming.any fun a => r.groupMask.getLsbD a.group.val && !a.part.isGuard && !a.phase.isHeld

theorem slotsToHold_eq (r : Request) (s : State) : s.slotsToHold r = slotsWhere (suspends r s) :=
  slotsWhere_arming _ s

theorem takeHold_eq (r : Request) (s : State) :
    takeHold r s = ((slotsWhere (suspends r s)).foldl (fun t n => holdSlot n t) (setGroups r .held s),
      unnamed .ok (count (suspends r s)) 0 false) := by
  rw [takeHold, plain_eq_unnamed, slotsToHold_eq, count_eq]

theorem heldSlot_eq {now : Time} {sl : Slot} {a : Arming} (h : sl.arming = some a) :
    heldSlot now sl = { sl with arming := some { a with phase := a.phase.hold now } } := by
  rw [heldSlot, h]
  rfl

/-- Settles O15: the named entries are set, and the slots concerned are suspended one after another. -/
theorem holdSuspendsItsGroups : Obligations.HoldSuspendsItsGroups := by
  intro r s harrives hr
  have slot (n : SlotNumber) := (holdSlot_onSlot s.time.now).foldl_slot (slotsWhere_nodup (suspends r s))
    (s := setGroups r .held (taken s)) rfl n
  refine ⟨_, exec_of_unflagged rfl rfl harrives hr (takeHold_eq r (taken s)) rfl, ?_, fun g => ?_, fun n h => ?_,
    fun n a h ha => ?_⟩
  · exact congrArg (responding _ r _)
      (foldl_groupsFrame (fun n s => putArming_groupsFrame n _ s) (slotsWhere (suspends r s))
      (setGroups_groupsFrame r .held (taken s)))
  · refine (congrArg (·[g]) (foldl_groups (fun n s => State.putArming_groups n _ s) (slotsWhere (suspends r s)) _)).trans ?_
    exact setGroups_group r .held (taken s) g
  · exact (slot n).trans (if_neg fun hm => Bool.false_ne_true (h.symm.trans (mem_slotsWhere.1 hm)))
  · have after := (slot n).trans ((if_pos (mem_slotsWhere.2 h)).trans (heldSlot_eq ha))
    exact ⟨fun d hd => after.trans (by rw [hd]; rfl), fun d hd => after.trans (by rw [hd]; rfl)⟩

/-! ## RELEASE (R38) -/

theorem slotsToRelease_eq (r : Request) (s : State) : s.slotsToRelease r = slotsWhere (heldIn r s) :=
  slotsWhere_arming _ s

theorem releasedAtOnce_eq (r : Request) (s : State) :
    s.releasedAtOnce r = slotsWhere fun n => heldIn r s n && leftOf s n == some 0 := by
  rw [State.releasedAtOnce, slotsToRelease_eq, slotsWhere_filter]
  rfl

theorem later?_isSome (now : Time) (k : Nat) : (later? now k).isSome = true ↔ now.toNat + k < 2 ^ 64 := by
  rw [later?_eq]
  by_cases h : now.toNat + k < 2 ^ 64
  · rw [if_pos h]
    exact iff_of_true rfl h
  · rw [if_neg h]
    exact iff_of_false Bool.false_ne_true h

theorem release?_held_armed (now : Time) (left : Option (BitVec 64)) :
    Phase.release? now (.held .armed left) = (later? now (left.getD 0).toNat).map .armed := rfl

theorem release?_held_waiting (now : Time) (k : BitVec 64) :
    Phase.release? now (.held .waiting (some k)) = (later? now k.toNat).map fun d => .waiting (some d) := rfl

/-- A slot can return exactly when device time carries its remaining time (R38). -/
theorem release?_isSome (now : Time) {p : Phase} (h : p.isHeld = true) :
    (p.release? now).isSome = true ↔ ∀ k, p.heldTime = some k → now.toNat + k.toNat < 2 ^ 64 := by
  have one (k : BitVec 64) : now.toNat + k.toNat < 2 ^ 64 ↔ ∀ j, some k = some j → now.toNat + j.toNat < 2 ^ 64 :=
    ⟨fun fits j e => Option.some.inj e ▸ fits, fun all => all k rfl⟩
  cases p with
  | armed d => cases h
  | waiting d => cases h
  | held o left =>
    cases o with
    | armed =>
      rw [release?_held_armed, Option.isSome_map, later?_isSome]
      cases left with
      | none => exact iff_of_true now.isLt fun k hk => nomatch hk
      | some k => exact one k
    | waiting =>
      cases left with
      | none => exact iff_of_true rfl fun k hk => nomatch hk
      | some k =>
        rw [release?_held_waiting, Option.isSome_map, later?_isSome]
        exact one k

theorem release?_getD {now : Time} {p : Phase} (h : (p.release? now).isSome = true) :
    (p.release? now).getD p = Returned now p := by
  cases p with
  | armed d => rfl
  | waiting d => rfl
  | held o left =>
    cases o with
    | armed =>
      rw [release?_held_armed, Option.isSome_map, later?_isSome] at h
      rw [release?_held_armed, later?_eq, if_pos h]
      rfl
    | waiting =>
      cases left with
      | none => rfl
      | some k =>
        rw [release?_held_waiting, Option.isSome_map, later?_isSome] at h
        rw [release?_held_waiting, later?_eq, if_pos h]
        rfl

theorem heldIn_iff {r : Request} {s : State} {n : SlotNumber} :
    heldIn r s n = true ↔
      ∃ a, s.slots[n].arming = some a ∧ r.groupMask.getLsbD a.group.val = true ∧ a.phase.isHeld = true := by
  rw [heldIn, Option.any_eq_true]
  simp only [Bool.and_eq_true]

theorem leftOf_eq {s : State} {n : SlotNumber} {a : Arming} (h : s.slots[n].arming = some a) :
    leftOf s n = a.phase.heldTime := by
  rw [leftOf, h]
  rfl

theorem canRelease_iff (r : Request) (s : State) : s.canRelease r = true ↔ ReleaseFits r s := by
  rw [State.canRelease, slotsToRelease_eq, List.all_eq_true]
  have slot (n : SlotNumber) (hn : heldIn r s n = true) :
      ((match s.slots[n].arming with
        | none => true
        | some a => (a.phase.release? s.time.now).isSome) = true)
        ↔ ∀ k, leftOf s n = some k → s.time.now.toNat + k.toNat < 2 ^ 64 := by
    obtain ⟨a, ha, -, held⟩ := heldIn_iff.1 hn
    rw [leftOf_eq ha, ← release?_isSome _ held, ha]
  exact ⟨fun h n k hn hk => (slot n hn).1 (h n (mem_slotsWhere.2 hn)) k hk,
    fun h n hn => (slot n (mem_slotsWhere.1 hn)).2 fun k hk => h n k (mem_slotsWhere.1 hn) hk⟩

/-- What RELEASE makes of a slot at time `now` (part 2 of R38). -/
def releasedSlot (now : Time) (sl : Slot) : Slot :=
  { sl with arming := sl.arming.map fun a => { a with phase := (a.phase.release? now).getD a.phase } }

theorem releaseSlot_onSlot (now : Time) : OnSlot now (releasedSlot now) releaseSlot where
  self n s hs := by rw [releaseSlot, State.putArming_slot, hs]; rfl
  other n m s h := State.putArming_slot_ne _ s h
  time n s := State.putArming_time n _ s

/-- The state in which the named entries and the held slots have returned (parts 1 and 2 of R38). -/
def returned (r : Request) (s : State) : State :=
  (slotsWhere (heldIn r s)).foldl (fun t n => releaseSlot n t) (setGroups r .running s)

theorem takeRelease_of_fits {r : Request} {s : State} (h : ReleaseFits r s) :
    takeRelease r s = (takeDue (returned r s), releaseAnswer r s) := by
  rw [takeRelease, if_pos ((canRelease_iff r s).2 h), slotsToRelease_eq, releasedAtOnce_eq, plain_eq_unnamed]
  rfl

theorem takeRelease_of_not_fits {r : Request} {s : State} (h : ¬ ReleaseFits r s) :
    takeRelease r s = (s, unnamed .timeRange s.time.now 0 false) := by
  rw [takeRelease, if_neg (mt (canRelease_iff r s).1 h), plain_eq_unnamed]

theorem returned_groupsFrame (r : Request) (s : State) : GroupsFrame s (returned r s) :=
  foldl_groupsFrame (fun n t => putArming_groupsFrame n _ t) _ (setGroups_groupsFrame r .running s)

theorem returned_released {r : Request} {s : State} (h : ReleaseFits r s) : Released r s (returned r s) := by
  have slot (n : SlotNumber) := (releaseSlot_onSlot s.time.now).foldl_slot (slotsWhere_nodup (heldIn r s))
    (s := setGroups r .running s) rfl n
  refine ⟨fun g => ?_, fun n hn => ?_, fun n a hn ha => ?_⟩
  · exact (congrArg (·[g]) (foldl_groups (fun n t => State.putArming_groups n _ t) (slotsWhere (heldIn r s)) _)).trans
      (setGroups_group r .running s g)
  · exact (slot n).trans (if_neg fun hm => Bool.false_ne_true (hn.symm.trans (mem_slotsWhere.1 hm)))
  · obtain ⟨b, hb, -, held⟩ := heldIn_iff.1 hn
    obtain rfl : a = b := Option.some.inj (ha.symm.trans hb)
    have fits : (a.phase.release? s.time.now).isSome = true :=
      (release?_isSome _ held).2 fun k hk => h n k hn ((leftOf_eq ha).trans hk)
    have after : releasedSlot s.time.now s.slots[n]
        = { s.slots[n] with arming := some { a with phase := Returned s.time.now a.phase } } := by
      rw [releasedSlot, ha, ← release?_getD fits]
      rfl
    exact (slot n).trans ((if_pos (mem_slotsWhere.2 hn)).trans after)

/-! ### What is due after the return -/

theorem mem_of_mem_relist {slots : Vector Slot 256} {n m : SlotNumber} {l : List SlotNumber} (h : m ∈ relist slots n l) :
    m = n ∨ m ∈ l := by
  unfold relist at h
  split at h
  · exact ((mem_insertDeadline slots n m _).1 h).imp_right List.mem_of_mem_erase
  · exact .inr (List.mem_of_mem_erase h)

theorem mem_of_mem_returned {r : Request} {s : State} {m : SlotNumber} (h : m ∈ (returned r s).deadlineList) :
    heldIn r s m = true ∨ m ∈ s.deadlineList := by
  have all : ∀ m ∈ (returned r s).deadlineList, heldIn r s m = true ∨ m ∈ s.deadlineList :=
    List.foldlRecOn (motive := fun t : State => ∀ m ∈ t.deadlineList, heldIn r s m = true ∨ m ∈ s.deadlineList)
      (slotsWhere (heldIn r s)) _ (fun m hm => .inr hm) fun t ht n hn m hm => by
        rcases mem_of_mem_relist hm with rfl | hm
        · exact .inl (mem_slotsWhere.1 hn)
        · exact ht m hm
  exact all m h

/-- A slot held from ARMED has a remaining time (R18; log 33). -/
theorem held_armed_isSome {a : Arming} {left : Option (BitVec 64)} (fits : a.phaseFits = true)
    (h : a.phase = .held .armed left) : left.isSome = true := by
  unfold Arming.phaseFits at fits
  rw [h] at fits
  cases hp : a.part <;> simp_all

theorem lt_add_of_ne_zero {now : Time} {k : BitVec 64} (fits : now.toNat + k.toNat < 2 ^ 64) (h : k ≠ 0) :
    now < BitVec.ofNat 64 (now.toNat + k.toNat) := by
  have positive : k.toNat ≠ 0 := fun e => h (BitVec.eq_of_toNat_eq e)
  rw [BitVec.lt_def, BitVec.toNat_ofNat, Nat.mod_eq_of_lt fits]
  omega

/-- A slot that returns with a remaining time other than 0 is not due. -/
theorem returned_not_due {now : Time} {a : Arming} (held : a.phase.isHeld = true) (fits : a.phaseFits = true)
    (carries : ∀ k, a.phase.heldTime = some k → now.toNat + k.toNat < 2 ^ 64) (ahead : a.phase.heldTime ≠ some 0) {d : Time}
    (hd : Arming.deadline? { a with phase := Returned now a.phase } = some d) : now < d := by
  have later (k : BitVec 64) (hk : a.phase.heldTime = some k) : now < BitVec.ofNat 64 (now.toNat + k.toNat) :=
    lt_add_of_ne_zero (carries k hk) fun e => ahead (hk.trans (congrArg some e))
  cases hp : a.phase with
  | armed e => rw [hp] at held; cases held
  | waiting e => rw [hp] at held; cases held
  | held o left =>
    rw [hp] at hd later
    cases o with
    | armed =>
      obtain ⟨k, rfl⟩ := Option.isSome_iff_exists.1 (held_armed_isSome fits hp)
      exact Option.some.inj hd ▸ later k rfl
    | waiting =>
      cases left with
      | none => cases hd
      | some k => exact Option.some.inj hd ▸ later k rfl

theorem returned_time (r : Request) (s : State) : (returned r s).time = s.time := by
  rw [returned_groupsFrame r s]

theorem returned_noneDue {r : Request} {s : State} (states : SlotStatesSound s) (fits : ReleaseFits r s)
    (ahead : ∀ n, heldIn r s n = true → leftOf s n ≠ some 0)
    (others : ∀ n ∈ s.deadlineList, ∀ d, deadlineOf s.slots[n] = some d → s.time.now < d) :
    (returned r s).dueSlots = [] := by
  obtain ⟨-, kept, back⟩ := returned_released fits
  refine List.filter_eq_nil_iff.2 fun n hn due => ?_
  obtain ⟨d, hd, hle⟩ := (State.isDue_iff n _).1 due
  rw [returned_time] at hle
  by_cases hheld : heldIn r s n = true
  · obtain ⟨a, ha, -, held⟩ := heldIn_iff.1 hheld
    rw [back n a hheld ha] at hd
    refine absurd hle (BitVec.not_le.2 (returned_not_due held (states n a ha) (fun k hk => ?_) ?_ hd))
    · exact fits n k hheld ((leftOf_eq ha).trans hk)
    · exact leftOf_eq ha ▸ ahead n hheld
  · rw [kept n (Bool.eq_false_iff.2 hheld)] at hd
    have listed := (mem_of_mem_returned hn).resolve_left hheld
    exact absurd hle (BitVec.not_le.2 (others n listed d ((deadlineOf_eq _).trans hd)))

theorem responding_held {kind : ResponseKind} {r : Request} {a : Answer} {s t : State} (h : t.fetch = s.fetch) :
    (responding kind r a t).held = (responding kind r a s).held := by
  unfold responding
  rw [h]

theorem returned_fetch (r : Request) (s : State) : (returned r s).fetch = s.fetch := by
  rw [returned_groupsFrame r s]

theorem releaseReturnsItsSlots : ReleaseReturnsItsSlots := by
  intro r s harrives hr states
  refine ⟨fun h => exec_of_unflagged rfl rfl harrives hr (takeRelease_of_not_fits (s := taken s) h) rfl, fun h => ?_⟩
  have still := (takeDue_acts (returned r (taken s))).still
  obtain ⟨groups, kept, back⟩ := returned_released (s := taken s) h
  refine ⟨_, exec_of_unflagged rfl rfl harrives hr (takeRelease_of_fits (s := taken s) h) rfl, fun g => ?_, ?_, ?_,
    fun ahead others => ?_⟩
  · exact (congrArg (·[g]) still.groups).trans (groups g)
  · exact responding_held (still.fetch.trans (returned_fetch r (taken s)))
  · exact still.time.trans (returned_time r (taken s))
  · have none := returned_noneDue (s := taken s) states h ahead others
    rw [takeDue_of_none none]
    exact ⟨congrArg (responding _ r _) (returned_groupsFrame r (taken s)), groups, kept, back⟩

theorem releaseTakesWhatIsDue : ReleaseTakesWhatIsDue := by
  intro r s harrives hr h list states ahead
  have timed : Timed (taken s) :=
    { list := list, slots := (slotsSound_iff s).2 ⟨states, ahead.1⟩, ahead := ahead.2.1 }
  have ready : Ready (returned r (taken s)) := (releaseSlots_timed r _ timed).toReady
  refine ⟨returned r (taken s), takeDue (returned r (taken s)),
    exec_of_unflagged rfl rfl harrives hr (takeRelease_of_fits (s := taken s) h) rfl, returned_groupsFrame r (taken s),
    returned_released (s := taken s) h, ready.list, ?_⟩
  exact dueSlots_eq _ ▸ takenInOrder ready

/-- Settles O16: the parts of a RELEASE, and the taking of the slots that are due after the return. -/
theorem releaseResumesItsGroups : Obligations.ReleaseResumesItsGroups :=
  ⟨releaseReturnsItsSlots, releaseTakesWhatIsDue⟩

end Sys2Proof.Proofs
end

section
/-! # RENEW and LINE (R67, R94, R96 to R98) -/

namespace Sys2Proof.Proofs
open Sys2Proof.Machine Sys2Proof.Claims

/-! ## RENEW (R96, R98) -/

theorem escalate_acts (n : SlotNumber) (a : Arming) (g : GuardPart) (s : State) : Acts s (escalate n a g s) := by
  unfold escalate
  cases g.stage with
  | normal => exact guardWarnStep_acts n a g _ _ s
  | warned => exact guardFaultStep_acts n a g _ s

section Renew
variable {r : Request} {s : State} {n : SlotNumber} {a : Arming} {g : GuardPart}

theorem takeRenew_of_stale (hn : Names r n) (stale : Stale r n s) :
    takeRenew r s = (s, naming n s.slots[n].generation .stale (stateCode s.slots[n]) 0 (pendingOf s.slots[n])) := by
  unfold takeRenew
  rw [slot?_eq_some hn]
  dsimp only
  rw [if_pos ((isStale_iff r n s).2 stale), codeValue_stateCode]
  rfl

theorem takeRenew_of_idle (hn : Names r n) (stale : ¬ Stale r n s) (idle : s.slots[n].arming = none) :
    takeRenew r s = (s, naming n s.slots[n].generation .notArmed 0 0 (pendingOf s.slots[n])) := by
  unfold takeRenew
  rw [slot?_eq_some hn]
  dsimp only
  rw [if_neg (mt (isStale_iff r n s).1 stale), codeValue_stateCode, stateCode_idle idle, idle]
  rfl

theorem takeRenew_of_other (hn : Names r n) (stale : ¬ Stale r n s) (ha : s.slots[n].arming = some a)
    (other : ∀ g, a.part ≠ .guard g) :
    takeRenew r s = (s, naming n s.slots[n].generation .wrongMode (stateCode s.slots[n]) 0 (pendingOf s.slots[n])) := by
  unfold takeRenew
  rw [slot?_eq_some hn]
  dsimp only
  rw [if_neg (mt (isStale_iff r n s).1 stale), codeValue_stateCode, ha]
  dsimp only
  cases hp : a.part with
  | guard g => exact absurd hp (other g)
  | _ => rfl

theorem takeRenew_of_guard (hn : Names r n) (stale : ¬ Stale r n s) (ha : s.slots[n].arming = some a)
    (hp : a.part = .guard g) : takeRenew r s = renewGuard n a g s := by
  unfold takeRenew
  rw [slot?_eq_some hn]
  dsimp only
  rw [if_neg (mt (isStale_iff r n s).1 stale), ha]
  dsimp only
  rw [hp]

theorem stage_code (x : GuardStage) : codeValue x.code = if x = .normal then 0 else 1 := by
  cases x <;> decide

theorem isEarly_iff {now : Time} :
    g.isEarly now = true ↔ g.window ≠ 0 ∧ now.toNat < g.lastRenew.toNat + g.window.toNat := by
  rw [GuardPart.isEarly, Bool.and_eq_true, bne_iff_ne, decide_eq_true_iff]

theorem not_early {now : Time} (h : g.window = 0 ∨ g.lastRenew.toNat + g.window.toNat ≤ now.toNat) :
    ¬ g.isEarly now = true := by
  rw [isEarly_iff]
  rintro ⟨window, early⟩
  rcases h with h | h
  · exact window h
  · omega

theorem renewGuard_of_beyond (onTime : ¬ g.isEarly s.time.now = true)
    (beyond : 2 ^ 64 ≤ s.time.now.toNat + g.period.toNat) :
    renewGuard n a g s = (s, naming n s.slots[n].generation .timeRange s.time.now 0 (pendingOf s.slots[n])) := by
  rw [renewGuard, if_neg onTime, later?_eq, if_neg (Nat.not_lt.2 beyond)]
  rfl

theorem renewGuard_of_fits (onTime : ¬ g.isEarly s.time.now = true) (fits : s.time.now.toNat + g.period.toNat < 2 ^ 64) :
    renewGuard n a g s =
      (s.putArming n (some { a with
          part := .guard { g with stage := .normal, lastRenew := s.time.now }
          phase := .armed (BitVec.ofNat 64 (s.time.now.toNat + g.period.toNat)) }),
        naming n s.slots[n].generation .ok (BitVec.ofNat 64 (s.time.now.toNat + g.period.toNat))
          (if g.stage = .normal then 0 else 1) (pendingOf s.slots[n])) := by
  rw [renewGuard, if_neg onTime, later?_eq, if_pos fits]
  dsimp only
  rw [stage_code]
  rfl

/-- An early renewal answers what the step has left of the slot (R97, R98). -/
theorem renewGuard_of_early (early : g.isEarly s.time.now = true) :
    renewGuard n a g s = (escalate n a g s,
      naming n s.slots[n].generation .earlyRenew ((escalate n a g s).deadlineAnswer n) (if g.stage = .normal then 0 else 1)
        (pendingOf (escalate n a g s).slots[n])) := by
  rw [renewGuard, if_pos early, stage_code, answerSlot_eq, slotPending_eq, (escalate_acts n a g s).still.generation n]

end Renew

/-- Settles O18: the cases of R96 but the early renewal. -/
theorem renewReturnsAGuardToNormal : Obligations.RenewReturnsAGuardToNormal := by
  intro r s n harrives hv hn
  refine ⟨fun stale => exec_of_valid rfl harrives hv (takeRenew_of_stale (s := taken s) hn stale) rfl,
    fun stale idle => exec_of_valid rfl harrives hv (takeRenew_of_idle (s := taken s) hn stale idle) rfl,
    fun stale a ha other => exec_of_valid rfl harrives hv (takeRenew_of_other (s := taken s) hn stale ha other) rfl,
    fun stale a g ha hp onTime => ⟨fun beyond => ?_, fun fits => ?_⟩⟩
  · exact exec_of_valid rfl harrives hv ((takeRenew_of_guard (s := taken s) hn stale ha hp).trans
      (renewGuard_of_beyond (s := taken s) (not_early onTime) beyond)) rfl
  · exact ⟨_, exec_of_valid rfl harrives hv ((takeRenew_of_guard (s := taken s) hn stale ha hp).trans
      (renewGuard_of_fits (s := taken s) (not_early onTime) fits)) rfl, rfl,
      fun m hm => State.putArming_slot_ne _ (taken s) hm, State.putArming_slot n _ (taken s)⟩

/-! ## Early renewals (R94, R97) -/

theorem escalate_of_warned {n : SlotNumber} {a : Arming} {g : GuardPart} {s : State} (h : g.stage = .warned) :
    escalate n a g s = faulted n a g false false true s := by
  rw [escalate, h]
  exact guardFaultStep_eq n a g false false true s

theorem escalate_of_beyond {n : SlotNumber} {a : Arming} {g : GuardPart} {s : State} (h : g.stage = .normal)
    (beyond : 2 ^ 64 ≤ s.time.now.toNat + g.grace.toNat) : escalate n a g s = faulted n a g false true true s := by
  rw [escalate, h]
  exact guardWarnStep_of_ge beyond

/-- What the warning step of a guard leaves, where its grace can be placed (R92). -/
def warned (n : SlotNumber) (a : Arming) (g : GuardPart) (s : State) : State :=
  (s.putArming n (some { a with
    part := .guard { g with stage := .warned }
    phase := .armed (BitVec.ofNat 64 (s.time.now.toNat + g.grace.toNat)) })).recordEvent (.slot n)
    (occurs .guardWarn a { warned := true, early := true } s) (a.policy != .final)

theorem escalate_of_fits {n : SlotNumber} {a : Arming} {g : GuardPart} {s : State} (h : g.stage = .normal)
    (fits : s.time.now.toNat + g.grace.toNat < 2 ^ 64) : escalate n a g s = warned n a g s := by
  rw [escalate, h]
  exact guardWarnStep_of_lt fits

theorem deadlineAnswer_of_arming {n : SlotNumber} {s : State} {after : Option Arming} (h : s.slots[n].arming = after) :
    s.deadlineAnswer n = ((after.bind Arming.deadline?).getD 0) := by
  rw [State.deadlineAnswer, Slot.deadline?, h]

theorem faulted_arming (n : SlotNumber) (a : Arming) (g : GuardPart) (late warned early : Bool) (s : State) :
    (faulted n a g late warned early s).slots[n].arming = none := by
  have ended (o : Occurrence) : (((s.performAction a.action).putArming n none).recordEvent (.slot n) o true).slots[n].arming
      = none := by
    rw [(State.recordEvent_slot _ o true _ n).1, State.putArming_slot]
  unfold faulted
  dsimp only
  split
  · rw [(raise_sameSlots _ _).arming n, ended]
  · exact ended _

/-- The answer of a renewal that ends in the fault step (R98). -/
theorem renewGuard_of_faulted {n : SlotNumber} {a : Arming} {g : GuardPart} {s : State} {late warned early : Bool}
    (isEarly : g.isEarly s.time.now = true) (h : escalate n a g s = faulted n a g late warned early s) :
    renewGuard n a g s = (faulted n a g late warned early s,
      naming n s.slots[n].generation .earlyRenew 0 (if g.stage = .normal then 0 else 1)
        (pendingOf (faulted n a g late warned early s).slots[n])) := by
  rw [renewGuard_of_early isEarly, h, deadlineAnswer_of_arming (faulted_arming n a g late warned early s)]
  rfl

theorem warned_deadlineAnswer (n : SlotNumber) (a : Arming) (g : GuardPart) (s : State) :
    (warned n a g s).deadlineAnswer n = BitVec.ofNat 64 (s.time.now.toNat + g.grace.toNat) := by
  have arming : (warned n a g s).slots[n].arming = some { a with
      part := .guard { g with stage := .warned }
      phase := .armed (BitVec.ofNat 64 (s.time.now.toNat + g.grace.toNat)) } := by
    rw [warned, (State.recordEvent_slot _ _ _ _ n).1, State.putArming_slot]
  rw [deadlineAnswer_of_arming arming]
  rfl

/-- Settles O19: the escalation of a guard, and the answer by what it leaves of the slot. -/
theorem earlyRenewEscalates : Obligations.EarlyRenewEscalates := by
  intro r s n a g harrives hv hn fresh ha hp window inside
  have stale : ¬ Stale r n (taken s) := fun h => h.2 (fresh h.1)
  have early : g.isEarly (taken s).time.now = true := isEarly_iff.2 ⟨window, inside⟩
  have take := takeRenew_of_guard (s := taken s) hn stale ha hp
  refine ⟨fun normal fits => ?_, fun normal beyond => ?_, fun warned => ?_⟩
  · have h := take.trans (renewGuard_of_early early)
    rw [if_pos normal, escalate_of_fits (s := taken s) normal fits, warned_deadlineAnswer] at h
    exact exec_of_valid rfl harrives hv h rfl
  · have h := take.trans (renewGuard_of_faulted early (escalate_of_beyond (s := taken s) normal beyond))
    rw [if_pos normal] at h
    exact exec_of_valid rfl harrives hv h rfl
  · have h := take.trans (renewGuard_of_faulted early (escalate_of_warned warned))
    rw [if_neg (by rw [warned]; nofun)] at h
    exact exec_of_valid rfl harrives hv h rfl

/-! ## LINE (R67) -/

theorem actionKind_cases {r : Request} (h : ¬ BadAction r) :
    r.actionKind = 1 ∨ r.actionKind = 2 ∨ r.actionKind = 3 ∨ r.actionKind = 4 ∨ r.actionKind = 5 := by
  unfold BadAction at h
  bv_omega

/-- An action that a record names is the one the model reads from it. -/
theorem namesAction_unique {r : Request} {x y : Action} (hr : ¬ BadAction r) (hx : NamesAction r x) (hy : NamesAction r y) :
    x = y := by
  obtain ⟨lineX, x1, x2, x3, x4, x5⟩ := hx
  obtain ⟨lineY, y1, y2, y3, y4, y5⟩ := hy
  have line : x.line = y.line := Fin.ext (lineX.trans lineY.symm)
  have kind : x.kind = y.kind := by
    rcases actionKind_cases hr with h | h | h | h | h
    · exact (x1 h).trans (y1 h).symm
    · exact (x2 h).trans (y2 h).symm
    · exact (x3 h).trans (y3 h).symm
    · exact (x4 h).trans (y4 h).symm
    · exact (x5 h).trans (y5 h).symm
  cases x
  cases y
  cases line
  cases kind
  rfl

theorem width_of_names {r : Request} {x : Action} (hr : ¬ BadAction r) (h : NamesAction r x) :
    x.kind.width? = if r.actionKind = 4 ∨ r.actionKind = 5 then some r.pulseWidth else none := by
  obtain ⟨-, h1, h2, h3, h4, h5⟩ := h
  rcases actionKind_cases hr with e | e | e | e | e
  · rw [h1 e, e]; rfl
  · rw [h2 e, e]; rfl
  · rw [h3 e, e]; rfl
  · rw [h4 e, e]; rfl
  · rw [h5 e, e]; rfl

theorem pulseOutOfRange_iff (k : ActionKind) (now : Time) :
    pulseOutOfRange k now = true ↔ ∃ w, k.width? = some w ∧ 2 ^ 64 ≤ now.toNat + w.toNat := by
  unfold pulseOutOfRange
  cases k.width? with
  | none => exact iff_of_false Bool.false_ne_true fun ⟨w, hw, _⟩ => nomatch hw
  | some w =>
    have beyond : (later? now w.toNat).isNone = true ↔ 2 ^ 64 ≤ now.toNat + w.toNat := by
      rw [← Nat.not_lt, ← later?_isSome now w.toNat]
      cases later? now w.toNat <;> simp
    exact beyond.trans ⟨fun h => ⟨w, rfl, h⟩, fun ⟨v, hv, h⟩ => Option.some.inj hv ▸ h⟩

theorem pulseEndAnswer_of_width {k : ActionKind} {w : BitVec 32} (h : k.width? = some w) {now : Time}
    (fits : now.toNat + w.toNat < 2 ^ 64) : pulseEndAnswer k now = BitVec.ofNat 64 (now.toNat + w.toNat) := by
  rw [pulseEndAnswer, h]
  dsimp only
  rw [later?_eq, if_pos fits, Option.getD_some]

theorem pulseEndAnswer_of_none {k : ActionKind} (h : k.width? = none) (now : Time) : pulseEndAnswer k now = 0 := by
  rw [pulseEndAnswer, h]

section Line
variable {r : Request} {s : State} {x : Action} {d : Drive}

theorem takeLine_of_tripped (hx : action? r = some x) (hd : s.lines[x.line].drive = some d)
    (tripped : s.lineTripped x.line = true) :
    takeLine r s = (s, unnamed .lineTripped (boolValue d.level) 0 false) := by
  rw [takeLine, hx]
  dsimp only
  rw [hd]
  dsimp only
  rw [if_pos tripped, plain_eq_unnamed]

theorem takeLine_of_beyond (hx : action? r = some x) (hd : s.lines[x.line].drive = some d)
    (free : ¬ s.lineTripped x.line = true) (beyond : pulseOutOfRange x.kind s.time.now = true) :
    takeLine r s = (s, unnamed .timeRange s.time.now 0 false) := by
  rw [takeLine, hx]
  dsimp only
  rw [hd]
  dsimp only
  rw [if_neg free, if_pos beyond, plain_eq_unnamed]

theorem takeLine_of_free (hx : action? r = some x) (hd : s.lines[x.line].drive = some d)
    (free : ¬ s.lineTripped x.line = true) (fits : ¬ pulseOutOfRange x.kind s.time.now = true) :
    takeLine r s = (s.putDrive x.line (some (d.apply x.kind s.time.now)),
      unnamed .ok (boolValue (d.apply x.kind s.time.now).level) (pulseEndAnswer x.kind s.time.now) false) := by
  rw [takeLine, hx]
  dsimp only
  rw [hd]
  dsimp only
  rw [if_neg free, if_neg fits, plain_eq_unnamed]

end Line

/-- Settles O29: the checks of R67 in their order, then the action on the line. -/
theorem lineDrivesItsLine : Obligations.LineDrivesItsLine := by
  intro r s x d harrives hv hline hd k1 k2 k3 k4 k5
  have good : ¬ BadAction r := fun bad => hv.2.2.1 (.inl ⟨.inr (.inr rfl), bad⟩)
  have names : NamesAction r x := ⟨hline.symm, k1, k2, k3, k4, k5⟩
  obtain ⟨y, hy, namesY⟩ := action?_of_valid hv (.inr (.inr rfl))
  obtain rfl := namesAction_unique good names namesY
  have width := width_of_names good names
  have trip := lineTripped_iff x.line (taken s)
  refine ⟨fun tripped => ?_, fun free pulse beyond => ?_, fun free fits => ?_⟩
  · exact exec_of_valid rfl harrives hv (takeLine_of_tripped (s := taken s) hy hd (trip.2 tripped)) rfl
  · have outOfRange := (pulseOutOfRange_iff x.kind s.time.now).2 ⟨_, width.trans (if_pos pulse), beyond⟩
    exact exec_of_valid rfl harrives hv (takeLine_of_beyond (s := taken s) hy hd (mt trip.1 free) outOfRange) rfl
  · have inRange : ¬ pulseOutOfRange x.kind s.time.now = true := by
      rw [pulseOutOfRange_iff, width]
      rintro ⟨w, hw, beyond⟩
      by_cases pulse : r.actionKind = 4 ∨ r.actionKind = 5
      · rw [if_pos pulse] at hw
        exact absurd (fits pulse) (Nat.not_lt.2 (Option.some.inj hw ▸ beyond))
      · rw [if_neg pulse] at hw
        cases hw
    have answer : pulseEndAnswer x.kind s.time.now = if r.actionKind = 4 ∨ r.actionKind = 5 then
        BitVec.ofNat 64 (s.time.now.toNat + r.pulseWidth.toNat) else 0 := by
      by_cases pulse : r.actionKind = 4 ∨ r.actionKind = 5
      · rw [if_pos pulse, pulseEndAnswer_of_width (width.trans (if_pos pulse)) (fits pulse)]
      · rw [if_neg pulse, pulseEndAnswer_of_none (width.trans (if_neg pulse))]
    have performed := performAction_of_performed (s := taken s) hd
      (actionOutcome_of_free (s := taken s) hd (Bool.eq_false_iff.2 (mt trip.1 free)))
    have take := takeLine_of_free (s := taken s) hy hd (mt trip.1 free) inRange
    rw [show pulseEndAnswer x.kind (taken s).time.now = _ from answer] at take
    refine ⟨_, d.apply x.kind s.time.now, exec_of_valid rfl harrives hv take rfl, ?_, ?_⟩
    · rw [performed]
      rfl
    · exact congrArg OutputLine.drive (putDrive_line x.line _ (taken s))

end Sys2Proof.Proofs
end

section
/-! # The three record layouts (11.2 to 11.4, R165) -/

namespace Sys2Proof.Proofs
open Sys2Proof.Machine Sys2Proof.Claims

/-! ## What is written is read back -/

/-- The named fields of a configuration block: its first 36 bytes. -/
def blockHead (b : ConfigBlock) : Vector Byte 36 :=
  #v[byteOf b.format 0, byteOf b.format 1, b.submissionLog2, b.completionLog2,
    byteOf b.divider 0, byteOf b.divider 1, byteOf b.divider 2, byteOf b.divider 3,
    byteOf b.submissionBase 0, byteOf b.submissionBase 1, byteOf b.submissionBase 2, byteOf b.submissionBase 3,
    byteOf b.submissionBase 4, byteOf b.submissionBase 5, byteOf b.submissionBase 6, byteOf b.submissionBase 7,
    byteOf b.completionBase 0, byteOf b.completionBase 1, byteOf b.completionBase 2, byteOf b.completionBase 3,
    byteOf b.completionBase 4, byteOf b.completionBase 5, byteOf b.completionBase 6, byteOf b.completionBase 7,
    byteOf b.enableMask 0, byteOf b.enableMask 1, byteOf b.defaultMask 0, byteOf b.defaultMask 1,
    byteOf b.safeMask 0, byteOf b.safeMask 1, byteOf b.participateMask 0, byteOf b.participateMask 1,
    b.threshold, b.options, byteOf b.moderation 0, byteOf b.moderation 1]

theorem getElem_encodeBlock_head (b : ConfigBlock) {i : Nat} (h : i < 36) : (encodeBlock b)[i] = (blockHead b)[i] :=
  Vector.getElem_append_left h

theorem getElem_encodeBlock_reserved (b : ConfigBlock) (i : Fin 28) : (encodeBlock b)[36 + i.val] = b.reserved[i] := by
  have right := Vector.getElem_append_right (xs := blockHead b) (ys := b.reserved) (i := 36 + i.val) (by omega) (by omega)
  refine right.trans ?_
  simp only [Nat.add_sub_cancel_left, Fin.getElem_fin]

theorem decodeBlock_encodeBlock (b : ConfigBlock) : decodeBlock (encodeBlock b) = b := by
  have reserved : (Vector.ofFn fun i : Fin 28 => (encodeBlock b)[36 + i.val]) = b.reserved := by
    apply Vector.ext
    intro i hi
    rw [Vector.getElem_ofFn]
    exact getElem_encodeBlock_reserved b ⟨i, hi⟩
  unfold decodeBlock read16 read32 read64
  rw [reserved]
  simp only [Nat.reduceAdd, getElem_encodeBlock_head, Nat.reduceLT]
  simp only [blockHead, Vector.getElem_mk, List.getElem_toArray, List.getElem_cons_zero, List.getElem_cons_succ]
  simp only [bytes16, bytes32, bytes64]

theorem decodeCompletion_encodeCompletion (c : CompletionRecord) : decodeCompletion (encodeCompletion c) = c := by
  obtain ⟨⟩ := c
  simp only [decodeCompletion, encodeCompletion, read16, read32, read64, Vector.getElem_mk, List.getElem_toArray,
    List.getElem_cons_zero, List.getElem_cons_succ, Nat.reduceAdd]
  simp only [bytes16, bytes32, bytes64]

/-! ## What is read is written back -/

section Fields
variable {n : Nat} (m : Vector Byte n) (o : Nat)

theorem byteOf_read16 (h : o + 1 < n) : byteOf (read16 m o h) 0 = m[o] ∧ byteOf (read16 m o h) 1 = m[o + 1] := by
  simp only [read16, byteOf_append_low, byteOf_append_high (k := 0), byteOf_byte, and_self]

theorem byteOf_read32 (h : o + 3 < n) :
    byteOf (read32 m o h) 0 = m[o] ∧ byteOf (read32 m o h) 1 = m[o + 1] ∧ byteOf (read32 m o h) 2 = m[o + 2]
      ∧ byteOf (read32 m o h) 3 = m[o + 3] := by
  simp only [read32, byteOf_append_low, byteOf_append_high (k := 0), byteOf_append_high (k := 1),
    byteOf_append_high (k := 2), byteOf_byte, and_self]

theorem byteOf_read64 (h : o + 7 < n) :
    byteOf (read64 m o h) 0 = m[o] ∧ byteOf (read64 m o h) 1 = m[o + 1] ∧ byteOf (read64 m o h) 2 = m[o + 2]
      ∧ byteOf (read64 m o h) 3 = m[o + 3] ∧ byteOf (read64 m o h) 4 = m[o + 4] ∧ byteOf (read64 m o h) 5 = m[o + 5]
      ∧ byteOf (read64 m o h) 6 = m[o + 6] ∧ byteOf (read64 m o h) 7 = m[o + 7] := by
  simp only [read64, byteOf_append_low, byteOf_append_high (k := 0), byteOf_append_high (k := 1),
    byteOf_append_high (k := 2), byteOf_append_high (k := 3), byteOf_append_high (k := 4), byteOf_append_high (k := 5),
    byteOf_append_high (k := 6), byteOf_byte, and_self]

end Fields

theorem encodeCompletion_decodeCompletion (m : Image32) : encodeCompletion (decodeCompletion m) = m := by
  unfold encodeCompletion decodeCompletion
  simp only [byteOf_read16, byteOf_read32, byteOf_read64]
  apply Vector.ext
  intro i hi
  interval_cases i <;> rfl

theorem encodeRecord_decodeRecord (m : Image64) : encodeRecord (decodeRecord m) = m := by
  unfold encodeRecord decodeRecord
  simp only [byteOf_read16, byteOf_read32, byteOf_read64]
  apply Vector.ext
  intro i hi
  interval_cases i <;> rfl

theorem blockHead_decodeBlock (m : Image64) {i : Nat} (h : i < 36) : (blockHead (decodeBlock m))[i] = m[i] := by
  unfold blockHead decodeBlock
  simp only [byteOf_read16, byteOf_read32, byteOf_read64]
  interval_cases i <;> rfl

theorem encodeBlock_decodeBlock (m : Image64) : encodeBlock (decodeBlock m) = m := by
  apply Vector.ext
  intro i hi
  obtain head | rest := Nat.lt_or_ge i 36
  · exact (getElem_encodeBlock_head _ head).trans (blockHead_decodeBlock m head)
  · obtain ⟨j, rfl⟩ := Nat.exists_eq_add_of_le rest
    refine (getElem_encodeBlock_reserved (decodeBlock m) ⟨j, by omega⟩).trans ?_
    exact Vector.getElem_ofFn _

theorem layoutsRoundTrip : LayoutsRoundTrip :=
  ⟨decodeRecord_encodeRecord, decodeBlock_encodeBlock, decodeCompletion_encodeCompletion, encodeRecord_decodeRecord,
    encodeBlock_decodeBlock, encodeCompletion_decodeCompletion⟩

/-! ## Fields at their offsets -/

section Offsets
variable {n : Nat} (m : Vector Byte n) (o : Nat)

theorem fieldAt_zero : fieldAt m o 0 = 0 := rfl

/-- A field is its first byte and 256 times the field that begins one byte further on. -/
theorem fieldAt_succ (k : Nat) (h : o < n) : fieldAt m o (k + 1) = m[o].toNat + 256 * fieldAt m (o + 1) k := by
  have first : m.toList.getD o 0 = m[o] := by simp [List.getD, h]
  unfold fieldAt
  rw [List.range_succ_eq_map, List.foldr_cons, List.foldr_map, Nat.add_zero, first]
  simp only [Nat.succ_eq_add_one, Nat.add_assoc, Nat.add_comm 1]

theorem fieldAt_one (h : o < n) : fieldAt m o 1 = m[o].toNat := by
  rw [fieldAt_succ m o 0 h, fieldAt_zero, Nat.mul_zero, Nat.add_zero]

theorem fieldAt_two (h : o + 1 < n) : fieldAt m o 2 = (read16 m o h).toNat := by
  rw [fieldAt_succ m o 1 (by omega), fieldAt_one m (o + 1) h, read16, toNat_append_eq_add]
  rfl

theorem fieldAt_four (h : o + 3 < n) : fieldAt m o 4 = (read32 m o h).toNat := by
  rw [fieldAt_succ m o 3 (by omega), fieldAt_succ m (o + 1) 2 (by omega), fieldAt_two m (o + 2) h]
  simp only [read32, read16, toNat_append_eq_add]
  simp only [Nat.add_assoc, Nat.reduceAdd]
  omega

theorem fieldAt_eight (h : o + 7 < n) : fieldAt m o 8 = (read64 m o h).toNat := by
  rw [fieldAt_succ m o 7 (by omega), fieldAt_succ m (o + 1) 6 (by omega), fieldAt_succ m (o + 2) 5 (by omega),
    fieldAt_succ m (o + 3) 4 (by omega), fieldAt_four m (o + 4) h]
  simp only [read64, read32, toNat_append_eq_add]
  simp only [Nat.add_assoc, Nat.reduceAdd]
  omega

end Offsets

theorem blockFieldsStandAtTheirOffsets : BlockFieldsStandAtTheirOffsets := by
  intro b
  have read {α : Type} (f : ConfigBlock → α) : f (decodeBlock (encodeBlock b)) = f b :=
    congrArg f (decodeBlock_encodeBlock b)
  exact ⟨(fieldAt_two _ 0 (by decide)).trans (read fun x => x.format.toNat),
    (fieldAt_one _ 2 (by decide)).trans (read fun x => x.submissionLog2.toNat),
    (fieldAt_one _ 3 (by decide)).trans (read fun x => x.completionLog2.toNat),
    (fieldAt_four _ 4 (by decide)).trans (read fun x => x.divider.toNat),
    (fieldAt_eight _ 8 (by decide)).trans (read fun x => x.submissionBase.toNat),
    (fieldAt_eight _ 16 (by decide)).trans (read fun x => x.completionBase.toNat),
    (fieldAt_two _ 24 (by decide)).trans (read fun x => x.enableMask.toNat),
    (fieldAt_two _ 26 (by decide)).trans (read fun x => x.defaultMask.toNat),
    (fieldAt_two _ 28 (by decide)).trans (read fun x => x.safeMask.toNat),
    (fieldAt_two _ 30 (by decide)).trans (read fun x => x.participateMask.toNat),
    (fieldAt_one _ 32 (by decide)).trans (read fun x => x.threshold.toNat),
    (fieldAt_one _ 33 (by decide)).trans (read fun x => x.options.toNat),
    (fieldAt_two _ 34 (by decide)).trans (read fun x => x.moderation.toNat),
    fun i => (fieldAt_one _ (36 + i.val) (by omega)).trans (congrArg BitVec.toNat (getElem_encodeBlock_reserved b i))⟩

theorem requestFieldsStandAtTheirOffsets : RequestFieldsStandAtTheirOffsets := by
  intro r
  have read {α : Type} (f : Record → α) : f (decodeRecord (encodeRecord r)) = f r :=
    congrArg f (decodeRecord_encodeRecord r)
  exact ⟨(fieldAt_one _ 0 (by decide)).trans (read fun x => x.kind.toNat),
    (fieldAt_one _ 1 (by decide)).trans (read fun x => x.body.mode.toNat),
    (fieldAt_two _ 2 (by decide)).trans (read fun x => x.body.flags.toNat),
    (fieldAt_two _ 4 (by decide)).trans (read fun x => x.body.requestId.toNat),
    (fieldAt_two _ 6 (by decide)).trans (read fun x => x.body.slot.toNat),
    (fieldAt_eight _ 8 (by decide)).trans (read fun x => x.body.timeValue.toNat),
    (fieldAt_four _ 16 (by decide)).trans (read fun x => x.body.period.toNat),
    (fieldAt_four _ 20 (by decide)).trans (read fun x => x.body.grace.toNat),
    (fieldAt_four _ 24 (by decide)).trans (read fun x => x.body.delay.toNat),
    (fieldAt_four _ 28 (by decide)).trans (read fun x => x.body.pulseWidth.toNat),
    (fieldAt_two _ 32 (by decide)).trans (read fun x => x.body.limit.toNat),
    (fieldAt_two _ 34 (by decide)).trans (read fun x => x.body.expectedGen.toNat),
    (fieldAt_two _ 36 (by decide)).trans (read fun x => x.body.groupMask.toNat),
    (fieldAt_one _ 38 (by decide)).trans (read fun x => x.body.group.toNat),
    (fieldAt_one _ 39 (by decide)).trans (read fun x => x.body.outputLine.toNat),
    (fieldAt_one _ 40 (by decide)).trans (read fun x => x.body.actionKind.toNat),
    (fieldAt_one _ 41 (by decide)).trans (read fun x => x.body.inputLine.toNat),
    (fieldAt_one _ 42 (by decide)).trans (read fun x => x.body.edgeSelect.toNat),
    (fieldAt_one _ 43 (by decide)).trans (read fun x => x.body.reportPolicy.toNat),
    (fieldAt_one _ 44 (by decide)).trans (read fun x => x.body.latePolicy.toNat),
    (fieldAt_one _ 45 (by decide)).trans (read fun x => x.body.filterLength.toNat),
    (fieldAt_one _ 46 (by decide)).trans (read fun x => x.body.tripLevel.toNat),
    (fieldAt_one _ 47 (by decide)).trans (read fun x => x.body.reserved47.toNat),
    (fieldAt_eight _ 48 (by decide)).trans (read fun x => x.body.tag.toNat),
    (fieldAt_eight _ 56 (by decide)).trans (read fun x => x.body.reserved56.toNat)⟩

theorem completionFieldsStandAtTheirOffsets : CompletionFieldsStandAtTheirOffsets := by
  intro c
  have read {α : Type} (f : CompletionRecord → α) : f (decodeCompletion (encodeCompletion c)) = f c :=
    congrArg f (decodeCompletion_encodeCompletion c)
  exact ⟨(fieldAt_one _ 0 (by decide)).trans (read fun x => x.type.toNat),
    (fieldAt_one _ 1 (by decide)).trans (read fun x => x.code.toNat),
    (fieldAt_two _ 2 (by decide)).trans (read fun x => x.flags.toNat),
    (fieldAt_four _ 4 (by decide)).trans (read fun x => x.sequence.toNat),
    (fieldAt_eight _ 8 (by decide)).trans (read fun x => x.first.toNat),
    (fieldAt_eight _ 16 (by decide)).trans (read fun x => x.second.toNat),
    (fieldAt_two _ 24 (by decide)).trans (read fun x => x.source.toNat),
    (fieldAt_two _ 26 (by decide)).trans (read fun x => x.generation.toNat),
    (fieldAt_two _ 28 (by decide)).trans (read fun x => x.idOrCount.toNat),
    (fieldAt_two _ 30 (by decide)).trans (read fun x => x.submissionHead.toNat)⟩

/-- Settles O49: what the decoder reads of an encoded record stands at the field's offset, so the round trip places it. -/
theorem layoutsReadBackWhatTheyWrite : Obligations.LayoutsReadBackWhatTheyWrite :=
  ⟨layoutsRoundTrip, blockFieldsStandAtTheirOffsets, requestFieldsStandAtTheirOffsets,
    completionFieldsStandAtTheirOffsets⟩

end Sys2Proof.Proofs
end

section
/-! # The control block (R118 to R131, R163, R168) -/

namespace Sys2Proof.Proofs
open Sys2Proof.Machine Sys2Proof.Claims

/-! ## CONTROL (R118, R119, R124, R126) -/

theorem startBeginsALoad : StartBeginsALoad := by
  intro s
  refine ⟨?_, fun notHalted notFaulted => ?_⟩
  · rintro origin (⟨hs, rfl⟩ | ⟨hs, rfl⟩)
    · show Host.Outcome.next (startCommand s) = _
      rw [startCommand, hs]
      rfl
    · show Host.Outcome.next (startCommand s) = _
      rw [startCommand, hs]
      rfl
  · show Host.Outcome.next (startCommand s) = _
    unfold startCommand
    cases hs : s.control.state with
    | halted => exact absurd hs notHalted
    | faulted => exact absurd hs notFaulted
    | _ => rfl

theorem pauseCommand_of_idle {s : State} (h : s.control.state = .running) (idle : s.fetch.inFlight = none ∧ s.held = none) :
    pauseCommand s = s.withState .paused := by
  rw [pauseCommand, if_pos h, State.settlePause, if_pos ⟨rfl, idle⟩]
  rfl

theorem pauseCommand_of_busy {s : State} (h : s.control.state = .running)
    (busy : ¬ (s.fetch.inFlight = none ∧ s.held = none)) : pauseCommand s = s.withState .pausing := by
  rw [pauseCommand, if_pos h, State.settlePause, if_neg fun idle => busy idle.2]

theorem pauseAndResumeMoveTheState : PauseAndResumeMoveTheState := fun _ =>
  ⟨fun h idle => congrArg Host.Outcome.next (pauseCommand_of_idle h idle),
    fun h busy => congrArg Host.Outcome.next (pauseCommand_of_busy h busy),
    fun h => congrArg Host.Outcome.next (if_neg h),
    fun h => congrArg Host.Outcome.next (if_pos h),
    fun h k => congrArg Host.Outcome.next (if_neg fun e => e.elim h k)⟩

theorem controlWrite_of_ge {v : BitVec 32} (h : 5 ≤ v.toNat) (s : State) : controlWrite v s = ignoring s := by
  unfold controlWrite
  split
  case h_6 => rfl
  all_goals omega

theorem unassignedCodesAreIgnored : UnassignedCodesAreIgnored := by
  intro v s hv
  refine ⟨fun h => by rw [h]; rfl, fun h => ?_⟩
  have code : unassignedCode v = true := hv
  rw [unassignedCode, Bool.or_eq_true, beq_iff_eq, decide_eq_true_iff] at code
  exact congrArg Host.Outcome.next (controlWrite_of_ge (code.resolve_left h) s)

/-- Settles O34: each command by the state it is written in. -/
theorem controlCommandsMoveTheState : Obligations.ControlCommandsMoveTheState :=
  ⟨startBeginsALoad, pauseAndResumeMoveTheState, unassignedCodesAreIgnored⟩

/-! ## The register window (R130, R131, R163, R168) -/

theorem toNat_stateCode (x : ControllerState) : x.code.toNat = stateNumber x := by
  cases x <;> rfl

theorem toNat_statusWord (s : State) : s.statusWord.toNat =
    stateNumber s.control.state + 16 * faultNumber s.control.faultCause
      + (if s.trip.state = .tripped then 256 else 0) + (if s.control.cmdIgnored then 65536 else 0)
      + (if s.control.tailRange then 131072 else 0) + (if s.control.headRange then 262144 else 0) := by
  have flag (b : Bool) (k : Nat) : (if b then k else 0) = k * b.toNat := by cases b <;> simp
  have tripped : (if s.trip.state = .tripped then 256 else 0) = 256 * (s.trip.state == .tripped).toNat := by
    cases s.trip.state <;> rfl
  simp only [State.statusWord, toNat_append_eq_add, BitVec.toNat_ofBool, toNat_stateCode, toNat_faultCode, flag,
    tripped, BitVec.toNat_ofNat]
  simp only [Nat.reducePow, Nat.zero_mod, Nat.mul_zero, Nat.zero_add, Nat.add_zero]
  generalize stateNumber s.control.state = state
  generalize faultNumber s.control.faultCause = cause
  generalize (s.trip.state == .tripped).toNat = tripped
  omega

theorem statusReadReturnsAndClears : StatusReadReturnsAndClears := fun s =>
  ⟨s.statusWord, rfl, rfl, toNat_statusWord s⟩

theorem configAddressRegistersKeepTheirBits : ConfigAddressRegistersKeepTheirBits := by
  intro v s
  refine ⟨⟨v.extractLsb' 6 26 ++ 0#6, ?_, rfl⟩, rfl, rfl, rfl, rfl⟩
  rw [toNat_append_eq_add, BitVec.extractLsb'_toNat]
  have := v.isLt
  simp only [BitVec.toNat_ofNat]
  omega

theorem interruptRegistersFollowTheirBits : InterruptRegistersFollowTheirBits := by
  intro v s
  refine ⟨?_, ⟨_, rfl, fun b hb => ?_⟩, ⟨_, rfl, fun b hb => ?_⟩, ?_, ?_⟩
  · rw [State.intAsserted, bne_iff_ne]
    constructor
    · intro h
      by_contra none
      refine h (BitVec.eq_of_getLsbD_eq fun b hb => ?_)
      rw [BitVec.getLsbD_and, show (0 : BitVec 3).getLsbD b = false from BitVec.getLsbD_zero, Bool.and_eq_false_iff]
      by_contra both
      rw [not_or, Bool.not_eq_false, Bool.not_eq_false] at both
      exact none ⟨b, hb, both⟩
    · rintro ⟨b, hb, cause, enable⟩ zero
      have bit : (s.control.intCause &&& s.control.intEnable).getLsbD b = true := by
        rw [BitVec.getLsbD_and, cause, enable]
        rfl
      rw [zero, show (0 : BitVec 3).getLsbD b = false from BitVec.getLsbD_zero] at bit
      cases bit
  · simp [hb]
  · simp [hb]
  · exact (toNat_append_eq_add _ _).trans (by simp)
  · exact (toNat_append_eq_add _ _).trans (by simp)

/-- Settles O35: the registers bit by bit. -/
theorem registerWindowFollowsItsBits : Obligations.RegisterWindowFollowsItsBits :=
  ⟨statusReadReturnsAndClears, configAddressRegistersKeepTheirBits, interruptRegistersFollowTheirBits⟩

/-! ## Faults (R106, R127, R128) -/

/-- The fetch unit without its fetch in flight, which is counted as discarded (R127). -/
theorem discard_eq (f : FetchUnit) : f.discard = { f with
    inFlight := none, abandoned := if f.inFlight = none then f.abandoned else f.abandoned + 1 } := by
  obtain ⟨base, entries, head, tail, inFlight, abandoned⟩ := f
  cases inFlight <;> rfl

theorem enterFaulted_eq (cause : FaultCause) (s : State) :
    s.enterFaulted cause = faulting cause { s with fetch := s.fetch.discard } := rfl

theorem enterFaulted_of_no_fetch (cause : FaultCause) {s : State} (h : s.fetch.inFlight = none) :
    s.enterFaulted cause = faulting cause s := by
  have same : s.fetch.discard = s.fetch := by rw [FetchUnit.discard, h]
  rw [enterFaulted_eq, same]

/-! ## The end of a configuration read (R119 to R121) -/

theorem valid_iff (b : ConfigBlock) : b.valid = true ↔
    b.format.toNat = 1 ∧ 4 ≤ b.submissionLog2.toNat ∧ b.submissionLog2.toNat ≤ 12
      ∧ 4 ≤ b.completionLog2.toNat ∧ b.completionLog2.toNat ≤ 12 ∧ 1 ≤ b.divider.toNat ∧ b.divider.toNat ≤ 65536
      ∧ b.submissionBase.toNat % 64 = 0 ∧ b.completionBase.toNat % 32 = 0 ∧ b.threshold ≠ 0
      ∧ ∀ i : Fin 28, b.reserved[i] = 0 := by
  have format : b.format = 1 ↔ b.format.toNat = 1 := ⟨fun h => by rw [h]; rfl, fun h => BitVec.eq_of_toNat_eq h⟩
  have reserved : b.reserved.all (· == 0) = true ↔ ∀ i : Fin 28, b.reserved[i] = 0 := by
    rw [Vector.all_eq_true]
    exact ⟨fun h i => beq_iff_eq.1 (h i.val i.isLt), fun h i hi => beq_iff_eq.2 (h ⟨i, hi⟩)⟩
  simp only [ConfigBlock.valid, Bool.and_eq_true, decide_eq_true_iff, beq_iff_eq, bne_iff_ne, format, reserved, and_assoc,
    ne_eq]

/-- Settles O36: the read's end by its result, the block as it was written to memory. -/
theorem configReadEndsTheLoadOrHoldsTheBlock : Obligations.ConfigReadEndsTheLoadOrHoldsTheBlock := by
  intro s b
  refine ⟨fun reading noFetch => ?_, ?_⟩
  · have isSome := Option.isSome_iff_ne_none.2 reading
    have fault (cause : FaultCause) : (endRead s).enterFaulted cause = faulting cause (endRead s) :=
      enterFaulted_of_no_fetch cause noFetch
    refine ⟨?_, fun bad => ?_, fun good => ?_⟩
    · exact congrArg Host.Outcome.next ((if_pos isSome).trans (fault .configRead))
    · have invalid : ¬ (decodeBlock (encodeBlock b)).valid = true := by
        rw [decodeBlock_encodeBlock, valid_iff]
        exact bad
      exact congrArg Host.Outcome.next ((if_pos isSome).trans ((if_neg invalid).trans (fault .configBad)))
    · have valid : (decodeBlock (encodeBlock b)).valid = true := by
        rw [decodeBlock_encodeBlock, valid_iff]
        exact good
      refine congrArg Host.Outcome.next ((if_pos isSome).trans ((if_pos valid).trans ?_))
      rw [decodeBlock_encodeBlock]
      rfl
  · rintro c (rfl | rfl)
    · rfl
    · rfl

/-! ## A block applied (R72 to R74, R122) -/

theorem exec_configApply_of_waiting {s : State} {b : ConfigBlock} (hb : s.control.heldBlock = some b)
    (h : s.writer.inFlight ≠ none) : exec .configApply s = .next s := by
  show Host.Outcome.next _ = _
  rw [hb]
  exact congrArg Host.Outcome.next (if_neg h)

theorem exec_configApply_of_free {s : State} {b : ConfigBlock} (hb : s.control.heldBlock = some b)
    (h : s.writer.inFlight = none) : exec .configApply s = .next (applyBlock b s) := by
  show Host.Outcome.next _ = _
  rw [hb]
  exact congrArg Host.Outcome.next (if_pos h)

theorem applyBlock_frame (b : ConfigBlock) (s : State) : applyBlock b s = { s with
    lines := (applyBlock b s).lines, configurationPresent := true, fetch := s.fetch.load b, writer := s.writer.load b
    time := s.time.load b, control := s.control.load b } := by
  unfold applyBlock applyMasks
  generalize (Vector.ofFn fun n => s.lines[n].load b s.configurationPresent (s.trip.state == .tripped) n) = lines
  generalize s.fetch.load b = fetch
  generalize s.writer.load b = writer
  generalize s.time.load b = time
  generalize s.control.load b = control
  rfl

theorem configApplyLoadsEveryBlock : ConfigApplyLoadsEveryBlock := fun s b hb =>
  ⟨exec_configApply_of_waiting hb, fun h => ⟨applyBlock b s, exec_configApply_of_free hb h, applyBlock_frame b s⟩⟩

/-- A line held by a trip takes its safe level, whatever it drove (R70, R73). -/
theorem loadDrive_of_held (present default safe : Bool) (before : Option Drive) :
    loadDrive present true default safe true before = { level := safe, pulseEnd := none } := by
  cases before with
  | none => rfl
  | some d =>
    unfold loadDrive
    rw [Bool.and_self, Bool.not_true, Bool.and_false]
    rfl

/-- A line not held that stays enabled through a reload keeps what it drives (R74). -/
theorem loadDrive_of_kept {participates tripped : Bool} (free : (participates && tripped) = false) (default safe : Bool)
    (d : Drive) : loadDrive true tripped default safe participates (some d) = d := by
  rw [loadDrive, free]
  rfl

/-- Any other line takes its default level (R73, R74). -/
theorem loadDrive_of_first {present participates tripped : Bool} (free : (participates && tripped) = false)
    {before : Option Drive} (first : present = false ∨ before = none) (default safe : Bool) :
    loadDrive present tripped default safe participates before = { level := default, pulseEnd := none } := by
  have level : loadLevel default safe participates tripped = default := by
    rw [loadLevel, free]
    rfl
  cases before with
  | none => rw [loadDrive, level]
  | some d =>
    rw [loadDrive, first.resolve_right nofun, level]
    rfl

theorem configApplyDrivesTheLines : ConfigApplyDrivesTheLines := by
  intro s b hb h
  refine ⟨_, exec_configApply_of_free hb h, fun n => ?_⟩
  have notHeld (free : ¬ (b.participateMask.getLsbD n.val = true ∧ s.trip.state = .tripped)) :
      (b.participateMask.getLsbD n.val && s.trip.state == .tripped) = false := by
    rw [Bool.and_eq_false_iff, beq_eq_false_iff_ne, ← Bool.not_eq_true]
    exact not_and_or.1 free
  rw [applyBlock_line]
  refine ⟨rfl, rfl, rfl, fun disabled => if_neg (Bool.eq_false_iff.1 disabled), fun enabled tripped => ?_,
    fun enabled free present d hd => ?_, fun enabled free first => ?_⟩
  · obtain ⟨participates, tripped⟩ := tripped
    refine (if_pos enabled).trans ?_
    rw [participates, tripped]
    exact congrArg some (loadDrive_of_held _ _ _ _)
  · refine (if_pos enabled).trans ?_
    rw [hd, present, loadDrive_of_kept (notHeld free)]
  · exact (if_pos enabled).trans (congrArg some (loadDrive_of_first (notHeld free) first _ _))

/-- Settles O37: the frame of the application, and the masks line by line. -/
theorem configApplyTakesTheBlockWhole : Obligations.ConfigApplyTakesTheBlockWhole :=
  ⟨configApplyLoadsEveryBlock, configApplyDrivesTheLines⟩

end Sys2Proof.Proofs
end

section
/-! # Fetches (R125, R127, R135 to R137) -/

namespace Sys2Proof.Proofs
open Sys2Proof.Machine Sys2Proof.Claims

theorem fetchIsIssuedUnderItsFourConditions : FetchIsIssuedUnderItsFourConditions := fun _ =>
  ⟨fun may => congrArg Host.Outcome.next (if_pos (decide_eq_true may)),
    fun mayNot => congrArg Host.Outcome.next (if_neg fun h => mayNot (of_decide_eq_true h))⟩

/-! ## The arrival of a record (R136, R165) -/

theorem ofCode?_kindNumber (k : RequestKind) : RequestKind.ofCode? (BitVec.ofNat 8 (kindNumber k)) = some k := by
  cases k <;> rfl

theorem takeRecord_encodeRecord (k : RequestKind) (r : Request) :
    takeRecord (decodeRecord (encodeRecord { kind := BitVec.ofNat 8 (kindNumber k), body := r }))
      = engineTakes k r (owner k) := by
  funext s
  rw [decodeRecord_encodeRecord, takeRecord, ofCode?_kindNumber]

/-- The arrival of a record is the row of its kind. -/
theorem exec_fetchDataArrives {c : Instr} {k : RequestKind} {r : Request} (hc : requestOf c = some (k, r)) (s : State) :
    exec (.fetchDataArrives .own (encodeRecord { kind := BitVec.ofNat 8 (kindNumber k), body := r })) s = exec c s := by
  rw [exec_eq_arrive_of_requestOf hc, ← takeRecord_encodeRecord]
  rfl

theorem engineTakes_held (k : RequestKind) (r : Request) (s : State) : (engineTakes k r (owner k) s).held ≠ none := by
  unfold engineTakes
  cases refusal? k r s with
  | some status => exact Option.some_ne_none _
  | none => exact Option.some_ne_none _

theorem engineTakes_fetch (k : RequestKind) (r : Request) (s : State) : (engineTakes k r (owner k) s).fetch = s.fetch := by
  unfold engineTakes
  cases refusal? k r s with
  | some status => rfl
  | none => exact (owner_quiet k r s).fetch

/-! ## A withdrawn record (R125, R136) -/

theorem settlePause_of_settled {s : State} (h : s.control.state = .pausing) (hf : s.fetch.inFlight = none)
    (hh : s.held = none) : s.settlePause = { s with control := { s.control with state := .paused } } :=
  if_pos ⟨h, hf, hh⟩

theorem settlePause_of_busy {s : State} (h : s.control.state ≠ .pausing ∨ s.held ≠ none) : s.settlePause = s :=
  if_neg fun ⟨pausing, _, held⟩ => h.elim (· pausing) (· held)

theorem arrive_of_withdrawn {s : State} (h : s.fetch.inFlight ≠ none) (hw : s.fetch.tail = s.fetch.head)
    (take : State → State) :
    s.arrive take = State.settlePause { s with fetch := { s.fetch with inFlight := none } } := by
  obtain ⟨i, hi⟩ := Option.ne_none_iff_exists'.1 h
  unfold State.arrive
  rw [hi]
  exact if_pos hw

theorem arrivingDataIsTheRowOfItsKind : ArrivingDataIsTheRowOfItsKind := by
  intro c k r s hc
  refine ⟨exec_fetchDataArrives hc s, rfl, fun harrives => ?_, fun inFlight withdrawn => ?_⟩
  · refine ⟨_, (exec_fetchDataArrives hc s).trans (exec_of_requestOf hc harrives), engineTakes_held k r _, ?_⟩
    exact engineTakes_fetch k r (taken s)
  · rw [exec_eq_arrive_of_requestOf hc, arrive_of_withdrawn inFlight withdrawn]
    exact ⟨fun pausing idle => congrArg Host.Outcome.next (settlePause_of_settled pausing rfl idle),
      fun busy => congrArg Host.Outcome.next (settlePause_of_busy busy)⟩

theorem fetchReadErrorFaults : FetchReadErrorFaults := by
  intro s
  refine ⟨fun inFlight => ?_, rfl⟩
  obtain ⟨i, hi⟩ := Option.ne_none_iff_exists'.1 inFlight
  show Host.Outcome.next _ = _
  rw [hi]
  exact congrArg Host.Outcome.next (enterFaulted_of_no_fetch .fetchRead rfl)

/-- Settles O39: the issue, the arrival and the error of a fetch. -/
theorem fetchesAreIssuedAndEnd : Obligations.FetchesAreIssuedAndEnd :=
  ⟨fetchIsIssuedUnderItsFourConditions, arrivingDataIsTheRowOfItsKind, fetchReadErrorFaults⟩

end Sys2Proof.Proofs
end

section
/-! # The completion writer (R153 to R159, R161, R164) -/

namespace Sys2Proof.Proofs
open Sys2Proof.Machine Sys2Proof.Claims

/-! ## Interrupt moderation (R164) -/

/-- Settles O48: the timer expires exactly at 0. -/
theorem moderationDelaySignalsCompletion : Obligations.ModerationDelaySignalsCompletion := fun _ =>
  ⟨fun h => congrArg Host.Outcome.next (if_pos h), fun h => congrArg Host.Outcome.next (if_neg h)⟩

theorem countRecord_counted (u : State) : Counted u (countRecord u) := by
  have first : u.writer.moderationCount + 1 = 1 ↔ u.writer.moderationCount = 0 := by omega
  refine ⟨fun h => if_pos h, fun h => ?_⟩
  simp only [first]
  exact if_neg (Nat.not_le.2 h)

/-! ## Codes and flags of a completion record (11.4, 11.7) -/

theorem code_status (x : Status) : x.code = BitVec.ofNat 8 (statusNumber x) := by cases x <;> rfl

theorem eventCode_eq (e : Option Event) : eventCode e = BitVec.ofNat 8 (eventNumber e) := by
  cases e with
  | none => rfl
  | some e => cases e <;> rfl

theorem flagsMask_eq (a : Answer) :
    a.flagsMask = (if a.reportWasPending then 1 else 0) + (if a.wasClear then 2 else 0) := by
  unfold Answer.flagsMask
  cases a.reportWasPending <;> cases a.wasClear <;> rfl

theorem slotField_eq (named : Option SlotNumber) : slotField named = match named with
    | none => 0xFFFF
    | some n => BitVec.ofNat 16 n.val := by cases named <;> rfl

theorem mask_eq (f : ReportFlags) : f.mask = BitVec.ofNat 16 (flagsNumber f) := by
  have flag (b : Bool) (n : Nat) : bit b n = 2 ^ n * b.toNat := by cases b <;> simp [bit]
  apply BitVec.eq_of_toNat_eq
  simp only [ReportFlags.mask, flagsNumber, toNat_append_eq_add, BitVec.toNat_ofBool, flag, BitVec.toNat_ofNat]
  have := f.late.toNat_le; have := f.overrun.toNat_le; have := f.suppressed.toNat_le
  have := f.dropped.toNat_le; have := f.final.toNat_le; have := f.cancelled.toNat_le
  have := f.saturated.toNat_le; have := f.warned.toNat_le; have := f.early.toNat_le
  omega

theorem writeOf_eq (source : WriteSource) (c : CompletionRecord) (s : State) :
    s.writeOf source c = written source c s := by
  have waited : (!s.writer.queue.isEmpty) = decide (s.writer.queue ≠ []) := by cases s.writer.queue <;> rfl
  unfold State.writeOf written
  rw [waited]
  rfl

/-! ## Arbitration (R153, R154, R161) -/

/-- The state of the controller, of the writer and of the ring allow a write (R153). -/
def MayWrite (s : State) : Prop :=
  (s.control.state = .running ∨ s.control.state = .pausing ∨ s.control.state = .paused)
    ∧ s.writer.inFlight = none ∧ (s.writer.writeIndex + 1) % s.writer.entries ≠ s.writer.completeHead

theorem writes_iff (x : ControllerState) : x.writes = true ↔ x = .running ∨ x = .pausing ∨ x = .paused := by
  cases x <;> simp [ControllerState.writes]

theorem mayWrite_iff (s : State) :
    (s.control.state.writes = true ∧ s.writer.inFlight = none ∧ s.writer.full = false) ↔ MayWrite s := by
  rw [MayWrite, writes_iff, CompletionWriter.full, beq_eq_false_iff_ne]

/-- What the issue writes when it may. -/
def chosenWrite (s : State) : State :=
  match s.choose with
  | .nothing => s
  | .response h => issueResponse h s
  | .report source => issueReport source s

theorem exec_issue_of_may {s : State} (h : MayWrite s) : exec .completionWriteIssue s = .next (chosenWrite s) :=
  congrArg Host.Outcome.next (if_pos ((mayWrite_iff s).2 h))

theorem exec_issue_of_not_may {s : State} (h : ¬ MayWrite s) : exec .completionWriteIssue s = .next s :=
  congrArg Host.Outcome.next (if_neg fun may => h ((mayWrite_iff s).1 may))

theorem eligibleResponse_eq_some {s : State} {h : HeldResponse} :
    s.eligibleResponse = some h ↔ s.held = some h ∧ (h.kind = .fence → s.writer.fenceMark = some 0) := by
  unfold State.eligibleResponse
  cases s.held with
  | none => simp
  | some r =>
    dsimp only
    by_cases waits : r.kind = .fence ∧ s.writer.fenceMark ≠ some 0
    · rw [if_pos waits]
      refine ⟨nofun, fun ⟨same, mark⟩ => ?_⟩
      obtain rfl := Option.some.inj same
      exact absurd (mark waits.1) waits.2
    · rw [if_neg waits]
      refine ⟨fun same => ⟨same, fun fence => ?_⟩, fun ⟨same, _⟩ => same⟩
      obtain rfl := Option.some.inj same
      exact not_not.1 fun mark => waits ⟨fence, mark⟩

theorem precedes_eq_false {h : HeldResponse} {src : Source} :
    h.precedes src = false ↔ ∀ n, h.kind = .acceptedArm n → src ≠ .slot n := by
  unfold HeldResponse.precedes
  cases h.kind <;> simp

/-- The response yields its turn to the source at the head of the queue (R154). -/
def Yields (h : HeldResponse) (src : Source) (s : State) : Prop :=
  s.writer.fairness = 4 ∧ ∀ n, h.kind = .acceptedArm n → src ≠ .slot n

theorem choose_of_none {s : State} (he : s.eligibleResponse = none) (hq : s.writer.queue = []) :
    s.choose = .nothing := by
  rw [State.choose, he, hq]
  rfl

theorem choose_of_response {s : State} {h : HeldResponse} (he : s.eligibleResponse = some h)
    (hy : ∀ src, s.writer.queue.head? = some src → ¬ Yields h src s) : s.choose = .response h := by
  rw [State.choose, he]
  cases hq : s.writer.queue.head? with
  | none => rfl
  | some src => exact if_neg fun ⟨fair, late⟩ => hy src hq ⟨fair, precedes_eq_false.1 late⟩

theorem choose_of_report {s : State} {src : Source} (hq : s.writer.queue.head? = some src)
    (hy : ∀ h, s.eligibleResponse = some h → Yields h src s) : s.choose = .report src := by
  rw [State.choose, hq]
  cases he : s.eligibleResponse with
  | none => rfl
  | some h => exact if_pos ⟨(hy h he).1, precedes_eq_false.2 (hy h he).2⟩

theorem chosenWrite_of_response {s : State} {h : HeldResponse} (hc : s.choose = .response h) :
    chosenWrite s = issueResponse h s := by rw [chosenWrite, hc]

theorem chosenWrite_of_report {s : State} {src : Source} (hc : s.choose = .report src) :
    chosenWrite s = issueReport src s := by rw [chosenWrite, hc]

/-! ## The issue of a write (R153, R156) -/

theorem response_record (h : HeldResponse) (sequence : BitVec 32) : h.record sequence =
    { type := 1, code := BitVec.ofNat 8 (statusNumber h.answer.status)
      flags := (if h.answer.reportWasPending then 1 else 0) + (if h.answer.wasClear then 2 else 0)
      sequence := sequence, first := h.answer.valueA, second := h.answer.valueB
      source := match h.answer.named with
        | none => 0xFFFF
        | some n => BitVec.ofNat 16 n.val
      generation := h.answer.generation, idOrCount := h.requestId, submissionHead := h.submissionHead } := by
  rw [HeldResponse.record, code_status, flagsMask_eq, slotField_eq]

theorem issueResponse_eq (h : HeldResponse) (s : State) : issueResponse h s = { s with writer := { s.writer with
    inFlight := some (written .response (h.record s.writer.nextSequence) s) } } := by
  rw [issueResponse, writeOf_eq]
  rfl

theorem report_record (src : Source) (s : State) (f : ReportFields) :
    reportRecord src f (s.reportGeneration src) s.fetch.head s.writer.nextSequence =
      { type := 2, flags := BitVec.ofNat 16 (flagsNumber f.flags), sequence := s.writer.nextSequence
        first := f.tag, second := f.time, code := BitVec.ofNat 8 (eventNumber f.event)
        source := match src with
          | .slot n => BitVec.ofNat 16 n.val
          | .controller => 256
        generation := match src with
          | .slot n => s.slots[n].generation
          | .controller => 0
        idOrCount := f.count, submissionHead := BitVec.ofNat 16 s.fetch.head } := by
  rw [reportRecord, eventCode_eq, mask_eq]
  cases src <;> rfl

theorem issueReport_frame (src : Source) (s : State) :
    issueReport src s = { s with
      slots := (issueReport src s).slots
      writer := { s.writer with
        controllerEntry := (issueReport src s).writer.controllerEntry
        inFlight := some (written (.report src (s.report src).fields) (reportRecord src (s.report src).fields
          (s.reportGeneration src) s.fetch.head s.writer.nextSequence) s) } } := by
  rw [← writeOf_eq]
  exact State.putReport_frame _ _ _

/-- Settles O44: by what the arbitration chooses. -/
theorem completionWriteIsArbitrated : Obligations.CompletionWriteIsArbitrated := by
  intro s
  refine ⟨exec_issue_of_not_may, fun none empty => ?_, fun may h eligible keeps => ?_, fun may src rest queue yields => ?_⟩
  · by_cases may : MayWrite s
    · have he : s.eligibleResponse = .none :=
        Option.eq_none_iff_forall_ne_some.2 fun h he => none h (eligibleResponse_eq_some.1 he)
      rw [exec_issue_of_may may, chosenWrite, choose_of_none he empty]
    · exact exec_issue_of_not_may may
  · have issued := issueResponse_eq h s
    rw [response_record] at issued
    rw [exec_issue_of_may may, chosenWrite_of_response (choose_of_response (eligibleResponse_eq_some.2 eligible) keeps)]
    exact congrArg Host.Outcome.next issued
  · have frame := issueReport_frame src s
    rw [report_record] at frame
    have chosen : s.choose = .report src :=
      choose_of_report (queue ▸ rfl) fun h he => yields h (eligibleResponse_eq_some.1 he)
    refine ⟨issueReport src s, ?_, frame, issueReport_report src s, fun _ other => issueReport_report_ne other s,
      State.putReport_slot _ _ _⟩
    rw [exec_issue_of_may may, chosenWrite_of_report chosen]

/-! ## The acknowledgement of a report (R149, R157) -/

theorem leaveQueue_slot (src : Source) (rejoins : Bool) (s : State) (n : SlotNumber) :
    (leaveQueue src rejoins s).slots[n].arming = s.slots[n].arming
      ∧ (leaveQueue src rejoins s).slots[n].generation = s.slots[n].generation := by
  cases rejoins <;> exact State.putReport_slot _ _ _ n

theorem leaveQueue_frame (src : Source) (rejoins : Bool) (s : State) :
    leaveQueue src rejoins s = { s with
      slots := (leaveQueue src rejoins s).slots
      writer := { s.writer with
        queue := s.writer.queue.erase src ++ if rejoins then [src] else []
        controllerEntry := (leaveQueue src rejoins s).writer.controllerEntry } } := by
  rw [← leaveQueue_queue]
  cases rejoins <;> cases src <;> rfl

theorem acknowledged_of_rejoins {rejoins : Bool} (h : rejoins = true) (r : Report) :
    r.acknowledged rejoins = { r with state := .pending } := if_pos h

theorem acknowledged_of_event {rejoins : Bool} (h : ¬ rejoins = true) {r : Report} (he : r.fields.event ≠ none) :
    r.acknowledged rejoins = { r with state := .none } := (if_neg h).trans (if_neg he)

theorem acknowledged_of_no_event {rejoins : Bool} (h : ¬ rejoins = true) {r : Report} (he : r.fields.event = none) :
    r.acknowledged rejoins = .empty := (if_neg h).trans (if_pos he)

theorem exec_reportWriteAck {s : State} {w : CompletionWrite} {src : Source} {formed : ReportFields}
    (hw : s.writer.inFlight = some w) (hsrc : w.source = .report src formed) :
    exec (.reportWriteAck .own) s = .next (acknowledgeReport src w s) := by
  show Host.Outcome.next _ = _
  rw [hw]
  dsimp only
  rw [hsrc]

/-- Settles O45: the source leaves the head of the queue, and the record is counted. -/
theorem reportAcknowledgementFreesTheSource : Obligations.ReportAcknowledgementFreesTheSource := by
  intro s w src formed hw hsrc hhead
  let acked := s.withWriter (s.writer.acknowledge 0 (s.writer.fenceMark.map (· - 1)))
  have kept (src' : Source) : acked.report src' = s.report src' := report_congr rfl rfl src'
  have tail : s.writer.queue.erase src = s.writer.queue.tail := by
    obtain ⟨rest, hq⟩ := List.head?_eq_some_iff.1 hhead
    rw [hq, List.erase_cons_head, List.tail_cons]
  have again : (w.eventNoted || w.cancelNoted) = true ↔ w.eventNoted = true ∨ w.cancelNoted = true :=
    Iff.of_eq (Bool.or_eq_true _ _)
  have report := leaveQueue_report src (w.eventNoted || w.cancelNoted) acked
  rw [kept] at report
  refine ⟨leaveQueue src (w.eventNoted || w.cancelNoted) acked, _, exec_reportWriteAck hw hsrc, countRecord_counted _,
    ?_, fun h => ?_, fun h he => ?_, fun h he => ?_, fun src' other => ?_, leaveQueue_slot _ _ _⟩
  · have frame := leaveQueue_frame src (w.eventNoted || w.cancelNoted) acked
    simp only [again] at frame
    rw [← tail]
    exact frame
  · exact report.trans (acknowledged_of_rejoins (again.2 h) _)
  · exact report.trans (acknowledged_of_event (mt again.1 h) he)
  · exact report.trans (acknowledged_of_no_event (mt again.1 h) he)
  · exact (leaveQueue_report_ne other _ _).trans (kept src')

/-! ## The acknowledgement of a response (R145, R158) -/

theorem settlePause_eq (s : State) : s.settlePause = { s with control := { s.control with state :=
    if s.control.state = .pausing ∧ s.fetch.inFlight = none ∧ s.held = none then .paused else s.control.state } } := by
  by_cases h : s.control.state = .pausing ∧ s.fetch.inFlight = none ∧ s.held = none
  · rw [if_pos h]; exact if_pos h
  · rw [if_neg h]; exact if_neg h

theorem holdsFence_of_held {s : State} {h : HeldResponse} (hh : s.held = some h) :
    s.holdsFence = true ↔ h.kind = .fence := by
  rw [State.holdsFence, hh]
  exact beq_iff_eq

theorem exec_responseWriteAck {s : State} {w : CompletionWrite} (hw : s.writer.inFlight = some w)
    (hsrc : w.source = .response) : exec (.responseWriteAck .own) s = .next (acknowledgeResponse w s) := by
  show Host.Outcome.next _ = _
  rw [hw]
  dsimp only
  rw [hsrc]

/-- Settles O46: the state before the count, then the count. -/
theorem responseAcknowledgementFreesTheEngine : Obligations.ResponseAcknowledgementFreesTheEngine := by
  intro s w h hw hsrc hh
  refine ⟨_, ?_, countRecord_counted _⟩
  rw [exec_responseWriteAck hw hsrc]
  refine congrArg (fun u => Host.Outcome.next (countRecord u)) ?_
  rw [settlePause_eq]
  simp only [holdsFence_of_held hh, State.withHeld, State.withWriter, and_true]
  rfl

/-! ## The error of a write (R127, R159) -/

theorem toNat_saturatingAdd (a b : BitVec 16) : (saturatingAdd a b).toNat = min 65535 (a.toNat + b.toNat) := by
  rw [saturatingAdd, BitVec.toNat_ofNat]
  omega

theorem restore_of_none {formed present : ReportFields} (h : present.event = none) :
    (formed.restore present).event = formed.event ∧ (formed.restore present).time = formed.time
      ∧ (formed.restore present).tag = formed.tag := by
  simp [ReportFields.restore, h]

theorem restore_of_event {formed present : ReportFields} (h : present.event ≠ none) :
    (formed.restore present).event = present.event ∧ (formed.restore present).time = present.time
      ∧ (formed.restore present).tag = present.tag := by
  obtain ⟨e, he⟩ := Option.ne_none_iff_exists'.1 h
  simp [ReportFields.restore, he]

theorem exec_completionWriteError {s : State} {w : CompletionWrite} (hw : s.writer.inFlight = some w) :
    exec (.completionWriteError .own) s = .next
      (if s.control.state.writes then (returnRecord w s).enterFaulted .completionWrite else returnRecord w s) := by
  show Host.Outcome.next _ = _
  rw [hw]

/-- Settles O47: the record returns to its source, and the controller faults where it writes. -/
theorem completionWriteErrorKeepsTheRecord : Obligations.CompletionWriteErrorKeepsTheRecord := by
  intro s w hw
  refine ⟨⟨returnRecord w s, fun hsrc => ?_, fun src formed hsrc => ?_, fun idle => ?_, fun writes => ?_⟩, ?_⟩
  · rw [returnRecord, hsrc]
    rfl
  · have returned : returnRecord w s = (s.withWriter { s.writer with inFlight := none }).putReport src
        { s.report src with fields := formed.restore (s.report src).fields } := by rw [returnRecord, hsrc]
    have kept (src' : Source) : (s.withWriter { s.writer with inFlight := none }).report src' = s.report src' :=
      report_congr rfl rfl src'
    rw [returned]
    dsimp only
    rw [State.putReport_report]
    exact ⟨State.putReport_frame _ _ _, rfl, restore_of_none, restore_of_event, toNat_saturatingAdd _ _, rfl,
      fun src' other => (State.putReport_report_ne _ _ other).trans (kept src'), State.putReport_slot _ _ _⟩
  · rw [exec_completionWriteError hw, if_neg (mt (writes_iff _).1 idle)]
  · rw [exec_completionWriteError hw, if_pos ((writes_iff _).2 writes), enterFaulted_eq, discard_eq]
  · rintro c (rfl | rfl | rfl) <;> rfl

end Sys2Proof.Proofs
end

section
/-! # CONFIG_INPUT and the trip-level status (R78 to R80, R104) -/

namespace Sys2Proof.Proofs
open Sys2Proof.Machine Sys2Proof.Claims

/-! ## What no event, no action and no raise reads -/

/-- The state with other input lines and another fetch unit. -/
def elsewhere (x : Vector InputLine 8) (f : FetchUnit) (s : State) : State := (s.withInputs x).withFetch f

section Elsewhere
variable (x : Vector InputLine 8) (f : FetchUnit)

theorem report_elsewhere (src : Source) (s : State) : (elsewhere x f s).report src = s.report src := by
  cases src <;> rfl

theorem putReport_elsewhere (src : Source) (r : Report) (s : State) :
    (elsewhere x f s).putReport src r = elsewhere x f (s.putReport src r) := by cases src <;> rfl

theorem makePending_elsewhere (src : Source) (s : State) :
    (elsewhere x f s).makePending src = elsewhere x f (s.makePending src) := by
  unfold State.makePending
  rw [report_elsewhere, putReport_elsewhere]
  cases (s.report src).state <;> rfl

theorem recordEvent_elsewhere (src : Source) (o : Occurrence) (makesPending : Bool) (s : State) :
    (elsewhere x f s).recordEvent src o makesPending = elsewhere x f (s.recordEvent src o makesPending) := by
  unfold State.recordEvent
  rw [report_elsewhere, putReport_elsewhere]
  cases makesPending with
  | false => rfl
  | true => exact makePending_elsewhere x f src _

theorem performAction_elsewhere (a : Option Action) (s : State) :
    (elsewhere x f s).performAction a = elsewhere x f (s.performAction a) := by
  cases a with
  | none => rfl
  | some a =>
    have outcome : (elsewhere x f s).actionOutcome (some a) = s.actionOutcome (some a) := rfl
    unfold State.performAction
    dsimp only
    rw [outcome]
    split <;> rfl

theorem recordTripEvent_elsewhere (s : State) : (elsewhere x f s).recordTripEvent = elsewhere x f s.recordTripEvent :=
  recordEvent_elsewhere x f _ _ _ s

theorem raise_elsewhere (r : Raise) (s : State) : (elsewhere x f s).raise r = elsewhere x f (s.raise r) := by
  have trip : (elsewhere x f s).trip = s.trip := rfl
  unfold State.raise
  rw [trip]
  cases s.trip.state with
  | clear => exact recordTripEvent_elsewhere x f ((s.withTrip (s.trip.addCause r)).enterTripped r)
  | tripped => exact recordTripEvent_elsewhere x f (s.withTrip (s.trip.addCause r))

end Elsewhere

/-! ## The record of an input line -/

theorem putInput_putInput (n : InputNumber) (l l' : InputLine) (s : State) :
    (s.putInput n l).putInput n l' = s.putInput n l' :=
  congrArg s.withInputs (Vector.set_set ..)

theorem putInput_self (n : InputNumber) (s : State) : s.putInput n s.inputs[n] = s :=
  congrArg s.withInputs (Vector.set_getElem_self ..)

theorem atTripLevel_eq (l : InputLine) : l.atTripLevel =
    ((l.tripLevel == .high && l.qualified == some true) || (l.tripLevel == .low && l.qualified == some false)) := by
  unfold InputLine.atTripLevel
  cases l.tripLevel with
  | none => rfl
  | high => exact (Bool.or_false _).symm
  | low => rfl

/-- What the trip unit makes of the status of a line, re-evaluated to `active` (R104). -/
def handed (n : InputNumber) (before active : Bool) (u : State) : State :=
  if active = before then u else if active then u.raise (.input n) else u.dropInputCause n

theorem reevaluate_putInput (n : InputNumber) (l : InputLine) (s : State) : (s.putInput n l).reevaluate n =
    handed n l.active l.atTripLevel (s.putInput n { l with active := l.atTripLevel }) := by
  rcases reevaluate_cases n (s.putInput n l) with ⟨same, h⟩ | ⟨high, low, h⟩ | ⟨low, high, h⟩ <;> rw [h]
  · rw [State.putInput_input] at same
    rw [handed, if_pos same, same]
  · rw [State.putInput_input] at high low
    rw [handed, high, low, State.putInput_input, putInput_putInput]
    rfl
  · rw [State.putInput_input] at high low
    rw [handed, high, low, State.putInput_input, putInput_putInput]
    rfl

theorem handed_elsewhere (x : Vector InputLine 8) (f : FetchUnit) (n : InputNumber) (before active : Bool) (u : State) :
    handed n before active (elsewhere x f u) = elsewhere x f (handed n before active u) := by
  unfold handed
  rw [raise_elsewhere, apply_ite (elsewhere x f), apply_ite (elsewhere x f)]
  rfl

theorem handed_inputs (n : InputNumber) (before active : Bool) (u : State) :
    (handed n before active u).inputs = u.inputs := by
  unfold handed
  split
  · rfl
  · split
    · exact State.raise_inputs _ u
    · rfl

theorem handed_withFetch (f : FetchUnit) (n : InputNumber) (before active : Bool) (u : State) :
    handed n before active (u.withFetch f) = (handed n before active u).withFetch f := by
  have kept : elsewhere (handed n before active u).inputs f (handed n before active u)
      = (handed n before active u).withFetch f := rfl
  rw [handed_inputs] at kept
  exact (handed_elsewhere u.inputs f n before active u).trans kept

/-! ## The trip-level status takes an edge (R77, R78) -/

theorem statusOfEdge_settled {n : InputNumber} {s : State} (h : ∀ e, s.inputs[n].edge = some e → e.statusDue = false) :
    statusOfEdge n s = s := by
  rcases statusOfEdge_cases n s with ⟨hs, -⟩ | ⟨e, he, due, -⟩
  · exact hs
  · rw [h e he] at due; exact nomatch due

theorem statusOfEdge_due {n : InputNumber} {s : State} {e : EdgeUnderWay} (he : s.inputs[n].edge = some e)
    (due : e.statusDue = true) : statusOfEdge n s = handed n s.inputs[n].active s.inputs[n].atTripLevel
      (s.putInput n { s.inputs[n] with
        active := s.inputs[n].atTripLevel, edge := EdgeUnderWay.left? { e with statusDue := false } }) := by
  rcases statusOfEdge_cases n s with ⟨-, settled⟩ | ⟨e', he', -, hs⟩
  · rw [settled e he] at due; exact nomatch due
  · obtain rfl := Option.some.inj (he.symm.trans he')
    exact hs.trans (reevaluate_putInput n _ s)

/-- The status taken, no part of the edge is due from it any more. -/
theorem statusOfEdge_settles (n : InputNumber) (s : State) (e : EdgeUnderWay)
    (h : (statusOfEdge n s).inputs[n].edge = some e) : e.statusDue = false := by
  rcases statusOfEdge_cases n s with ⟨hs, settled⟩ | ⟨e', -, -, hs⟩
  · exact settled e (by rwa [hs] at h)
  · rw [hs, reevaluate_input, State.putEdge, State.putInput_input] at h
    rw [left?_eq_some h]

theorem statusOfEdge_statusOfEdge (n : InputNumber) (s : State) : statusOfEdge n (statusOfEdge n s) = statusOfEdge n s :=
  statusOfEdge_settled (statusOfEdge_settles n s)

theorem putInput_withFetch (n : InputNumber) (l : InputLine) (f : FetchUnit) (s : State) :
    (s.withFetch f).putInput n l = (s.putInput n l).withFetch f := rfl

theorem statusOfEdge_withFetch (n : InputNumber) (f : FetchUnit) (s : State) :
    statusOfEdge n (s.withFetch f) = (statusOfEdge n s).withFetch f := by
  by_cases settled : ∀ e, s.inputs[n].edge = some e → e.statusDue = false
  · rw [statusOfEdge_settled settled]
    exact statusOfEdge_settled (s := s.withFetch f) settled
  · obtain ⟨e, he, due⟩ : ∃ e, s.inputs[n].edge = some e ∧ e.statusDue = true := by simpa using settled
    rw [statusOfEdge_due he due]
    refine (statusOfEdge_due (s := s.withFetch f) he due).trans ?_
    rw [putInput_withFetch, handed_withFetch]
    rfl

theorem statusOfEdge_taken (n : InputNumber) (s : State) : statusOfEdge n (taken s) = taken (statusOfEdge n s) := by
  have fetch : (statusOfEdge n s).fetch = s.fetch := (statusOfEdge_acts n s).still.fetch
  have moved : taken (statusOfEdge n s) = (statusOfEdge n s).withFetch (taken s).fetch := by
    unfold taken
    rw [fetch]
    rfl
  rw [moved]
  exact statusOfEdge_withFetch n _ s

/-! ## CONFIG_INPUT (R79, R80) -/

theorem input?_of_toNat {b : Byte} {n : InputNumber} (h : b.toNat = n.val) : input? b = some n := by
  have lt : b.toNat < 8 := h ▸ n.isLt
  rw [input?, dif_pos lt]
  exact congrArg some (Fin.ext h)

theorem configure_eq (filter : BitVec 8) (level : TripLevel) (l : InputLine) :
    l.configure filter level = { l with
      filter := filter
      tripLevel := level
      candidate := match l.candidate with
        | none => none
        | some c => if l.filter.toNat ≤ c.count then some { level := c.level, count := 0 } else none } := by
  unfold InputLine.configure InputLine.acceptable
  cases l.candidate with
  | none => rfl
  | some c =>
    by_cases full : l.filter.toNat ≤ c.count
    · simp only [if_pos full, Option.map_some]
    · simp only [if_neg full, Option.map_none]

theorem takeConfigInput_statusOfEdge {r : Request} {n : InputNumber} (hn : input? r.inputLine = some n) (s : State) :
    takeConfigInput r (statusOfEdge n s) =
      if (TripLevel.ofCode? r.tripLevel).isSome then takeConfigInput r s else (statusOfEdge n s, .refusal .badField) := by
  have free : (statusOfEdge n s).freeCount = s.freeCount := (statusOfEdge_acts n s).still.freeCount
  unfold takeConfigInput
  rw [hn]
  cases TripLevel.ofCode? r.tripLevel with
  | none => rfl
  | some level =>
    dsimp only
    rw [statusOfEdge_statusOfEdge, free]
    rfl

theorem takeConfigInput_of_settled {r : Request} {n : InputNumber} {level : TripLevel} {s : State} {q : Bool}
    (hn : input? r.inputLine = some n) (hl : TripLevel.ofCode? r.tripLevel = some level)
    (hq : s.inputs[n].qualified = some q) (settled : ∀ e, s.inputs[n].edge = some e → e.statusDue = false) :
    let l := s.inputs[n].configure r.filterLength level
    takeConfigInput r s = (handed n l.active l.atTripLevel (s.putInput n { l with active := l.atTripLevel }),
      unnamed .ok (boolValue q) (boolValue l.atTripLevel) false) := by
  intro l
  unfold takeConfigInput
  rw [hn, hl]
  dsimp only
  rw [statusOfEdge_settled settled, reevaluate_putInput]
  generalize hu : s.putInput n { l with active := l.atTripLevel } = u
  have line : (handed n l.active l.atTripLevel u).inputs[n] = { l with active := l.atTripLevel } := by
    rw [handed_inputs, ← hu, State.putInput_input]
  have qualified : l.qualified = some q := hq
  show (State.drawFree (State.inputs _)[n] _, Answer.plain .ok (qualifiedAnswer (State.inputs _)[n] _) _) = _
  rw [line, State.drawFree, qualifiedAnswer]
  dsimp only
  rw [qualified]
  rfl

theorem tripLevel_of_valid {r : Request} {s : State} (hv : Valid .configInput r s) :
    ∃ level, TripLevel.ofCode? r.tripLevel = some level := by
  refine Option.ne_none_iff_exists'.1 fun none => ?_
  have bad : 2 < r.tripLevel.toNat := (tripLevel_eq_none _).1 none
  exact hv.2.2.1 (.inr (.inr (.inr (.inl ⟨rfl, .inr bad⟩))))

theorem eq_ofNat_of_toNat {b : Byte} {k : Nat} (h : b.toNat = k) : b = BitVec.ofNat 8 k := by
  rw [← h, BitVec.ofNat_toNat, BitVec.setWidth_eq]

theorem tripLevel_eq {b : Byte} {level : TripLevel} (h : TripLevel.ofCode? b = some level) :
    level = if b = 0 then .none else if b = 1 then .high else .low := by
  rcases TripLevel.ofCode?_cases b with ⟨code, hb⟩ | ⟨code, hb⟩ | ⟨code, hb⟩ | ⟨-, hb⟩
  case inr.inr.inr => rw [hb] at h; exact nomatch h
  all_goals
    obtain rfl := Option.some.inj (hb.symm.trans h)
    obtain rfl := eq_ofNat_of_toNat code
    rfl

theorem atTripLevel_of_code {b : Byte} {l : InputLine} {q : Bool}
    (h : TripLevel.ofCode? b = some l.tripLevel) (hq : l.qualified = some q) :
    l.atTripLevel = (decide (b = 1) && q || decide (b = 2) && !q) := by
  rw [atTripLevel_eq, hq]
  rcases TripLevel.ofCode?_cases b with ⟨code, hb⟩ | ⟨code, hb⟩ | ⟨code, hb⟩ | ⟨-, hb⟩
  case inr.inr.inr => rw [hb] at h; exact nomatch h
  all_goals
    rw [← Option.some.inj (hb.symm.trans h)]
    obtain rfl := eq_ofNat_of_toNat code
    cases q <;> rfl

theorem configInputTakesTheLine : ConfigInputTakesTheLine := by
  intro r s n level q harrives hv hline hq settled hlevel
  obtain ⟨code, hcode⟩ := tripLevel_of_valid hv
  have atTrip : ((taken s).inputs[n].configure r.filterLength code).atTripLevel = level :=
    (atTripLevel_of_code (l := (taken s).inputs[n].configure r.filterLength code) hcode hq).trans hlevel.symm
  refine exec_of_valid rfl harrives hv ?_ rfl
  refine (takeConfigInput_of_settled (s := taken s) (input?_of_toNat hline) hcode hq settled).trans ?_
  rw [atTrip, configure_eq, tripLevel_eq hcode]
  rfl

theorem exec_configInput {r : Request} {s : State} (harrives : Arrives s) (hv : Valid .configInput r s) :
    exec (.configInput r) s = .next (responding .ordinary r (takeConfigInput r (taken s)).2
    (takeConfigInput r (taken s)).1) :=
  exec_of_valid rfl harrives hv rfl rfl

theorem beginEdge_of_edge {n : InputNumber} {s : State} {e : EdgeUnderWay} (h : s.inputs[n].edge = some e) :
    beginEdge n s = s := by
  rcases beginEdge_cases n s with ⟨-, -, same⟩ | ⟨-, -, same⟩ | ⟨_, none, -⟩
  · exact same
  · exact same
  · rw [h] at none; exact nomatch none

theorem configInputFollowsTheStatus : ConfigInputFollowsTheStatus := by
  intro r s n e harrives hv hline he due
  have kept : (statusOfEdge n s).fetch = s.fetch := (statusOfEdge_acts n s).still.fetch
  have arrives : Arrives (statusOfEdge n s) := by
    unfold Arrives
    rw [kept]
    exact harrives
  have valid : Valid .configInput r (statusOfEdge n s) := by
    refine ⟨hv.1, hv.2.1, hv.2.2.1, fun ⟨action, _⟩ => ?_⟩
    rcases action with ⟨arm, -⟩ | ⟨stage, -⟩ | line
    · exact nomatch arm
    · exact nomatch stage
    · exact nomatch line
  obtain ⟨level, hlevel⟩ := tripLevel_of_valid hv
  have same : takeConfigInput r (taken (statusOfEdge n s)) = takeConfigInput r (taken s) := by
    rw [← statusOfEdge_taken, takeConfigInput_statusOfEdge (input?_of_toNat hline), hlevel]
    rfl
  refine ⟨statusOfEdge n s, ?_, ?_, arrives, valid, statusOfEdge_settles n s⟩
  · exact congrArg (fun u => Host.Outcome.next (statusOfEdge n u)) (beginEdge_of_edge he)
  · rw [exec_configInput harrives hv, exec_configInput arrives valid, same]

/-- Settles O31: the CONFIG_INPUT of a settled line, and the status of the edge taken before it otherwise. -/
theorem configInputReevaluatesTheTripLevel : Obligations.ConfigInputReevaluatesTheTripLevel :=
  ⟨configInputTakesTheLine, configInputFollowsTheStatus⟩

end Sys2Proof.Proofs
end

section
/-! # An edge taken in shares (R77, R82 to R85, R89) -/

namespace Sys2Proof.Proofs
open Sys2Proof.Machine Sys2Proof.Claims

/-! ## One offer (R82) -/

theorem takes_iff (e : EdgeSelect) (level : Bool) :
    e.takes level = true ↔ e = .any ∨ e = if level then .rise else .fall := by
  cases e <;> cases level <;> simp [EdgeSelect.takes]

theorem takesEdge?_eq_some {n : InputNumber} {level : Bool} {a : Arming} {p : EdgePart} :
    a.takesEdge? n level = some p ↔ TakesEdge n level a p := by
  constructor
  · intro h
    have part := Arming.takesEdge?_part h
    unfold Arming.takesEdge? at h
    split at h
    case h_2 => exact nomatch h
    rename_i d q hphase hpart
    split at h
    case isFalse => exact nomatch h
    rename_i takes
    obtain rfl := Option.some.inj h
    exact ⟨⟨d, hphase⟩, part, takes.1, (takes_iff _ _).1 takes.2⟩
  · rintro ⟨⟨d, hphase⟩, hpart, hinput, hselect⟩
    unfold Arming.takesEdge?
    rw [hphase, hpart]
    exact if_pos ⟨hinput, (takes_iff _ _).2 hselect⟩

theorem captureEdge_eq (m : SlotNumber) (a : Arming) (e : EdgePart) (now : Time) (s : State) :
    let after := waitsAgain a { e with lastCapture := some now } now
    captureEdge m a e now s = ((s.performAction a.action).putArming m after).recordEvent (.slot m)
      { occurs .capture a { actionFlags a s with final := decide (after = none) } s with time := now }
      (a.policy == .every || (a.policy == .final && decide (after = none))) := by
  intro after
  have again : waitAgain a { e with lastCapture := some now } now = after := waitAgain_eq ..
  unfold captureEdge State.recordCapture
  dsimp only
  rw [again, isNone_eq, makesPending_of_plain plain_capture]
  have flags := outcomeFlags_union a s false false (decide (after = none))
  rw [flags]
  rfl

theorem startDelay_eq (m : SlotNumber) (a : Arming) (e : EdgePart) (k : BitVec 32) (now : Time) (s : State) :
    startDelay m a e k now s =
      if now.toNat + k.toNat < 2 ^ 64 then
        s.putArming m (some { a with
          part := .waitEdge { e with lastCapture := some now }
          phase := .armed (BitVec.ofNat 64 (now.toNat + k.toNat)) })
      else
        (s.putArming m none).recordEvent (.slot m) { occurs .capture a { final := true } s with time := now }
          (a.policy != .none) := by
  have pending : a.policy.makesPending .capture { final := true } = (a.policy != .none) := by cases a.policy <;> rfl
  unfold startDelay State.recordCapture
  rw [later?_eq, pending]
  by_cases fits : now.toNat + k.toNat < 2 ^ 64
  · simp only [if_pos fits]
  · simp only [if_neg fits]
    rfl

theorem edgeTaken_of_capture {e : EdgePart} (h : e.delay = none) (m : SlotNumber) (a : Arming) (now : Time) (s : State) :
    edgeTaken m a e now s = captureEdge m a e now s := by
  rw [captureEdge_eq]
  unfold edgeTaken
  dsimp only
  rw [h]

theorem edgeTaken_of_delay {e : EdgePart} {k : BitVec 32} (h : e.delay = some k) (m : SlotNumber) (a : Arming)
    (now : Time) (s : State) : edgeTaken m a e now s = startDelay m a e k now s := by
  rw [startDelay_eq]
  unfold edgeTaken
  dsimp only
  rw [h]

theorem edgeTaken_time (m : SlotNumber) (a : Arming) (e : EdgePart) (now : Time) (s : State) :
    (edgeTaken m a e now s).time = s.time := by
  cases h : e.delay with
  | none => rw [edgeTaken_of_capture h, captureEdge_eq, State.recordEvent_time, processed_time]
  | some k =>
    rw [edgeTaken_of_delay h, startDelay_eq]
    split
    · rfl
    · exact State.recordEvent_time _ _ _ _

theorem isDue_eq (m : SlotNumber) (s : State) :
    s.isDue m = (deadlineOf s.slots[m]).any fun d => decide (d ≤ s.time.now) := by
  rw [deadlineOf_eq]
  unfold State.isDue
  cases s.slots[m].deadline? <;> rfl

theorem offered_of_passes {n : InputNumber} {edge : EdgeUnderWay} {m : SlotNumber} {s : State}
    (h : ∀ a e, s.slots[m].arming = some a → ¬ TakesEdge n edge.level a e) : offered n edge m s = s := by
  unfold offered
  split
  · rename_i ha
    exact if_neg fun takes => h _ _ ha ⟨⟨_, rfl⟩, rfl, takes⟩
  · rfl

theorem offered_of_takes {n : InputNumber} {edge : EdgeUnderWay} {m : SlotNumber} {s : State} {a : Arming} {e : EdgePart}
    (ha : s.slots[m].arming = some a) (h : TakesEdge n edge.level a e) :
    offered n edge m s = takeAtInsertion m (edgeTaken m a e edge.time s) := by
  obtain ⟨⟨d, hphase⟩, hpart, takes⟩ := h
  obtain ⟨anchoring, action, policy, group, tag, part, phase⟩ := a
  dsimp only at hphase hpart
  subst hphase hpart
  unfold offered takeAtInsertion
  rw [ha]
  dsimp only
  rw [if_pos takes, isDue_eq, edgeTaken_time]

/-- The model's offer is the one that the words of the specification give (R82). -/
theorem offered_eq (n : InputNumber) (edge : EdgeUnderWay) (m : SlotNumber) (s : State) :
    offered n edge m s = offerEdge n edge m s := by
  rcases offerEdge_cases n edge m s with ⟨passes, h⟩ | ⟨a, e, ha, takes, ⟨hd, h⟩ | ⟨k, hd, h⟩⟩
  · rw [h]
    refine offered_of_passes fun a e ha takes => ?_
    have some := takesEdge?_eq_some.2 takes
    rw [passes a ha] at some
    exact nomatch some
  · rw [h, offered_of_takes ha (takesEdge?_eq_some.1 takes), edgeTaken_of_capture hd]
  · rw [h, offered_of_takes ha (takesEdge?_eq_some.1 takes), edgeTaken_of_delay hd]

/-! ## The queue that the offers leave (R151) -/

/-- The one source that may join the report queue is slot `m`, at its tail, when its report becomes pending. -/
structure JoinsOnce (m : SlotNumber) (s t : State) : Prop where
  queue : t.writer.queue = s.writer.queue ++
    if s.slots[m].report.state = .none ∧ t.slots[m].report.state = .pending then [.slot m] else []
  other : ∀ k : SlotNumber, k ≠ m → t.slots[k].report.state = s.slots[k].report.state
  stays : s.slots[m].report.state = .pending → t.slots[m].report.state = .pending

theorem JoinsOnce.trans {m : SlotNumber} {s t u : State} (h : JoinsOnce m s t) (k : JoinsOnce m t u) : JoinsOnce m s u where
  queue := by
    have hstays := h.stays
    have kstays := k.stays
    rw [k.queue, h.queue, List.append_assoc]
    cases hs : s.slots[m].report.state <;> cases ht : t.slots[m].report.state <;>
      cases hu : u.slots[m].report.state <;> simp_all
  other j hj := (k.other j hj).trans (h.other j hj)
  stays hs := k.stays (h.stays hs)

theorem SameReports.joinsOnce {s t : State} (h : SameReports s t) (m : SlotNumber) : JoinsOnce m s t where
  queue := by
    have same : t.slots[m].report.state = s.slots[m].report.state := h.state (.slot m)
    rw [h.queue, same, if_neg, List.append_nil]
    rintro ⟨none, pending⟩
    rw [none] at pending
    exact nomatch pending
  other k _ := h.state (.slot k)
  stays hs := (h.state (.slot m)).trans hs

theorem recordEvent_joinsOnce (m : SlotNumber) (o : Occurrence) (makesPending : Bool) (s : State) :
    JoinsOnce m s (s.recordEvent (.slot m) o makesPending) := by
  have state (k : SlotNumber) : (s.recordEvent (.slot m) o makesPending).slots[k].report.state =
      if k = m ∧ makesPending = true then .pending else s.slots[k].report.state :=
    (recordEvent_state (.slot m) o makesPending s (.slot k)).trans (if_congr (by rw [Source.slot.injEq]) rfl rfl)
  refine ⟨?_, fun k hk => ?_, fun pending => ?_⟩
  · rw [state]
    cases makesPending with
    | false => cases hs : s.slots[m].report.state <;> simp [(recordEvent_silent (.slot m) o s).1]
    | true =>
      cases hs : s.slots[m].report.state with
      | none => simp [(recordEvent_joins (src := .slot m) hs o).1]
      | pending => simp [(recordEvent_notes (src := .slot m) hs o).1]
  · rw [state, if_neg fun h => hk h.1]
  · rw [state, pending, ite_self]

/-- An action and an arming set leave every report and the queue. -/
theorem processed_sameReports (x : Option Action) (m : SlotNumber) (after : Option Arming) (s : State) :
    SameReports s ((s.performAction x).putArming m after) :=
  (SameReports.of_eq (s.performAction_slots x) (s.performAction_writer x)).trans (putSlot_sameReports m _ _ rfl)

theorem processed_joinsOnce (x : Option Action) (m : SlotNumber) (after : Option Arming) (o : Occurrence)
    (makesPending : Bool) (s : State) :
    JoinsOnce m s (((s.performAction x).putArming m after).recordEvent (.slot m) o makesPending) :=
  ((processed_sameReports x m after s).joinsOnce m).trans (recordEvent_joinsOnce m o makesPending _)

/-- The slot is IDLE or waits for edges. -/
def WaitsForEdges (m : SlotNumber) (s : State) : Prop := ∀ a, s.slots[m].arming = some a → ∃ p, a.part = .waitEdge p

theorem takeExpiry_joinsOnce {m : SlotNumber} {s : State} (h : WaitsForEdges m s) : JoinsOnce m s (takeExpiry m s) := by
  have refl : JoinsOnce m s s := (SameReports.refl s).joinsOnce m
  cases ha : s.slots[m].arming with
  | none => simpa only [takeExpiry, ha] using refl
  | some a =>
    obtain ⟨p, hp⟩ := h a ha
    cases hphase : a.phase with
    | armed d =>
      simp only [takeExpiry, ha, Arming.expiryKind?, hp, hphase, afterEdgeExpiry]
      exact processed_joinsOnce ..
    | waiting t =>
      cases t with
      | none => simpa only [takeExpiry, ha, Arming.expiryKind?, hp, hphase] using refl
      | some d =>
        simp only [takeExpiry, ha, Arming.expiryKind?, hp, hphase, timeoutExpiry]
        exact processed_joinsOnce none ..
    | held o r => simpa only [takeExpiry, ha, Arming.expiryKind?, hp, hphase] using refl

theorem takeAtInsertion_joinsOnce {m : SlotNumber} {s : State} (h : WaitsForEdges m s) :
    JoinsOnce m s (takeAtInsertion m s) := by
  unfold takeAtInsertion
  split
  · exact takeExpiry_joinsOnce h
  · exact (SameReports.refl s).joinsOnce m

theorem processed_waitsForEdges {x : Option Action} {m : SlotNumber} {after : Option Arming} {o : Occurrence}
    {makesPending : Bool} {s : State} (h : ∀ b, after = some b → ∃ p, b.part = .waitEdge p) :
    WaitsForEdges m (((s.performAction x).putArming m after).recordEvent (.slot m) o makesPending) := fun b hb => by
  rw [(State.recordEvent_slot _ _ _ _ m).1, State.putArming_slot] at hb
  exact h b hb

theorem offerEdge_joinsOnce (n : InputNumber) (edge : EdgeUnderWay) (m : SlotNumber) (s : State) :
    JoinsOnce m s (offerEdge n edge m s) := by
  rcases offerEdge_cases n edge m s with ⟨-, h⟩ | ⟨a, e, -, -, ⟨-, h⟩ | ⟨k, -, h⟩⟩ <;> rw [h]
  · exact (SameReports.refl s).joinsOnce m
  · exact (processed_joinsOnce ..).trans (takeAtInsertion_joinsOnce (processed_waitsForEdges fun b hb => waitAgain_part hb))
  · rcases startDelay_cases m a e k edge.time s with ⟨d, -, started⟩ | ended
    · rw [started]
      refine (processed_sameReports none m _ s).joinsOnce m |>.trans (takeAtInsertion_joinsOnce fun b hb => ?_)
      rw [State.putArming_slot] at hb
      exact ⟨_, (congrArg Arming.part (Option.some.inj hb)).symm⟩
    · rw [ended]
      exact (processed_joinsOnce none ..).trans
        (takeAtInsertion_joinsOnce (processed_waitsForEdges (x := none) fun b hb => nomatch hb))

/-- Slots that change one after another join the queue in their order. -/
theorem foldl_queue {f : SlotNumber → State → State} (hf : ∀ m s, JoinsOnce m s (f m s)) {l : List SlotNumber}
    (hl : l.Nodup) (s : State) :
    let t := l.foldl (fun t m => f m t) s
    (t.writer.queue = s.writer.queue ++ (l.filter fun m : SlotNumber =>
        decide (s.slots[m].report.state = .none ∧ t.slots[m].report.state = .pending)).map Source.slot)
      ∧ ∀ k, k ∉ l → t.slots[k].report.state = s.slots[k].report.state := by
  induction l generalizing s with
  | nil => exact ⟨(List.append_nil _).symm, fun _ _ => rfl⟩
  | cons m l ih =>
    obtain ⟨hm, hl⟩ := List.nodup_cons.1 hl
    obtain ⟨queue, rest⟩ := ih hl (f m s)
    have first := hf m s
    dsimp only
    rw [List.foldl_cons]
    generalize l.foldl (fun t m => f m t) (f m s) = t at queue rest ⊢
    refine ⟨?_, fun k hk => ?_⟩
    · have later : (l.filter fun k : SlotNumber =>
          decide ((f m s).slots[k].report.state = .none ∧ t.slots[k].report.state = .pending))
            = l.filter fun k : SlotNumber => decide (s.slots[k].report.state = .none
            ∧ t.slots[k].report.state = .pending) :=
        List.filter_congr fun k hk => by rw [first.other k fun e => hm (e ▸ hk)]
      rw [queue, later, first.queue, ← rest m hm, List.append_assoc, List.filter_cons]
      split
      · rename_i joins
        rw [if_pos (decide_eq_true joins)]
        rfl
      · rename_i stays
        rw [if_neg (mt of_decide_eq_true stays)]
        rfl
    · rw [List.mem_cons, not_or] at hk
      rw [rest k hk.2, first.other k hk.1]

/-! ## The shares (R77, R82) -/

theorem acceptable_of_full {l : InputLine} {c : Candidate} (hc : l.candidate = some c) (full : l.filter.toNat ≤ c.count) :
    l.acceptable = some c.level := by
  unfold InputLine.acceptable
  rw [hc]
  exact if_pos full

theorem beginEdge_of_not_full {n : InputNumber} {s : State}
    (h : ∀ c, s.inputs[n].candidate = some c → c.count < s.inputs[n].filter.toNat) : beginEdge n s = s := by
  rcases beginEdge_cases n s with ⟨-, -, same⟩ | ⟨-, -, same⟩ | ⟨level, -, full, -⟩
  · exact same
  · exact same
  · obtain ⟨c, hc, full, -⟩ := acceptable_eq_some full
    exact absurd (h c hc) (Nat.not_lt.2 full)

theorem beginEdge_of_begun {n : InputNumber} {s : State} {b : InputLine} {e : EdgeUnderWay}
    (h : Begun s.time.now s.inputs[n] b e) : beginEdge n s = s.putInput n { b with edge := some e } := by
  rcases h with ⟨he, rfl⟩ | ⟨none, c, hc, full, rfl, rfl⟩
  · rw [beginEdge_of_edge he, ← he]
    exact (putInput_self n s).symm
  · unfold beginEdge
    dsimp only
    rw [none, acceptable_of_full hc full]

theorem left?_eq (e : EdgeUnderWay) : e.left? = unfinished e := by
  have last : e.next = Fin.last 256 ↔ e.next.val = 256 := Fin.ext_iff
  unfold EdgeUnderWay.left? unfinished
  simp only [last]

theorem putEdge_putInput (n : InputNumber) (l : InputLine) (e : EdgeUnderWay) (s : State) :
    (s.putInput n l).putEdge n e = s.putInput n { l with edge := unfinished e } := by
  rw [State.putEdge, State.putInput_input, putInput_putInput, left?_eq]

theorem offerRange_eq (n : InputNumber) (e : EdgeUnderWay) (bound : Fin 257) (s : State) :
    offerRange n e bound s = ((List.finRange 256).filter fun m : SlotNumber =>
      decide (e.next.val ≤ m.val ∧ m.val < bound.val)).foldl (fun t m => offered n e m t) s := by
  have same : (fun (t : State) (m : SlotNumber) => offered n e m t) = fun t m => offerEdge n e m t :=
    funext fun t => funext fun m => offered_eq n e m t
  have range : (fun m : SlotNumber => decide (e.next.val ≤ m.val ∧ m.val < bound.val))
      = fun m : SlotNumber => decide (e.next.val ≤ m.val) && decide (m.val < bound.val) :=
    funext fun m => Bool.decide_and _ _
  rw [same, range]
  rfl

theorem offersOfEdge_putInput (n : InputNumber) (bound : Fin 257) (l : InputLine) (e : EdgeUnderWay) (s : State) :
    offersOfEdge n bound (s.putInput n { l with edge := some e }) =
      offerRange n e bound (s.putInput n { l with edge := unfinished { e with next := max e.next bound } }) := by
  unfold offersOfEdge
  rw [State.putInput_input]
  show offerRange n e bound ((s.putInput n _).putEdge n _) = _
  rw [putEdge_putInput]

theorem statusOfEdge_putInput {e : EdgeUnderWay} (due : e.statusDue = true) (n : InputNumber) (l : InputLine) (s : State) :
    statusOfEdge n (s.putInput n { l with edge := some e }) = handed n l.active l.atTripLevel
      (s.putInput n { l with active := l.atTripLevel, edge := unfinished { e with statusDue := false } }) := by
  rw [statusOfEdge_due (e := e) (by rw [State.putInput_input]) due, State.putInput_input, putInput_putInput, left?_eq]
  rfl

/-- The line holds no acceptance that is due. -/
def NotFull (n : InputNumber) (s : State) : Prop :=
  ∀ c, s.inputs[n].candidate = some c → c.count < s.inputs[n].filter.toNat

theorem NotFull.congr {n : InputNumber} {s t : State} (h : NotFull n s)
    (candidate : t.inputs[n].candidate = s.inputs[n].candidate) (filter : t.inputs[n].filter = s.inputs[n].filter) :
    NotFull n t := by
  intro c hc
  rw [filter]
  exact h c (candidate.symm.trans hc)

theorem NotFull.beginEdge {n : InputNumber} {s : State} (h : s.inputs[n].edge ≠ none → NotFull n s) :
    NotFull n (beginEdge n s) := by
  rcases beginEdge_cases n s with ⟨e, he, same⟩ | ⟨-, empty, same⟩ | ⟨level, -, -, begun⟩
  · rw [same]
    exact h (he ▸ Option.some_ne_none e)
  · rw [same]
    exact fun c hc => acceptable_eq_none empty hc
  · intro c hc
    rw [begun, State.putInput_input] at hc
    exact nomatch hc

theorem NotFull.offersOfEdge {n : InputNumber} {s : State} (h : NotFull n s) (bound : Fin 257) :
    NotFull n (offersOfEdge n bound s) := by
  cases he : s.inputs[n].edge with
  | none => rwa [offersOfEdge_none he]
  | some e =>
    have line : (Machine.offersOfEdge n bound s).inputs[n] =
        { s.inputs[n] with edge := EdgeUnderWay.left? { e with next := max e.next bound } } := by
      rw [offersOfEdge_inputs he, State.putEdge, State.putInput_input]
    exact h.congr (by rw [line]) (by rw [line])

theorem NotFull.statusOfEdge {n : InputNumber} {s : State} (h : NotFull n s) : NotFull n (statusOfEdge n s) := by
  rcases statusOfEdge_cases n s with ⟨same, -⟩ | ⟨e, -, -, taken⟩
  · rwa [same]
  · have line : (Machine.statusOfEdge n s).inputs[n].candidate = s.inputs[n].candidate
        ∧ (Machine.statusOfEdge n s).inputs[n].filter = s.inputs[n].filter := by
      rw [taken, reevaluate_input, State.putEdge, State.putInput_input]
      exact ⟨rfl, rfl⟩
    exact h.congr line.1 line.2

theorem edgeIsTakenInShares : EdgeIsTakenInShares := by
  intro s n b e hbegun line
  have begun := beginEdge_of_begun hbegun
  refine ⟨fun bound => ?offers, fun idle => ?idle, fun due => ?status, fun settled => ⟨?slotsFirst, ?statusFirst⟩⟩
  case offers =>
    intro slots t
    have taken : exec (.edge n (.offersBelow bound)) s = .next t := by
      refine congrArg Host.Outcome.next ?_
      show offersOfEdge n bound (beginEdge n s) = _
      rw [begun, offersOfEdge_putInput, offerRange_eq]
      rfl
    have joins (m : SlotNumber) (u : State) : JoinsOnce m u (offered n e m u) :=
      offered_eq n e m u ▸ offerEdge_joinsOnce n e m u
    exact ⟨taken, (foldl_queue joins ((List.nodup_finRange 256).filter _) _).1⟩
  case idle =>
    have same : beginEdge n s = s := by
      rcases hbegun with ⟨he, -⟩ | ⟨-, c, -, -, rfl, -⟩
      · exact beginEdge_of_edge he
      · exact nomatch idle
    refine congrArg Host.Outcome.next ?_
    show statusOfEdge n (beginEdge n s) = s
    rw [same] at begun ⊢
    exact statusOfEdge_not_due (e := e) (by rw [begun, State.putInput_input]) idle
  case status =>
    intro active l u
    refine congrArg Host.Outcome.next ?_
    show statusOfEdge n (beginEdge n s) = _
    rw [begun, statusOfEdge_putInput due, atTripLevel_eq]
    rfl
  case slotsFirst =>
    refine ⟨_, _, rfl, ?_, rfl⟩
    exact congrArg (fun u => Host.Outcome.next (statusOfEdge n u))
      (beginEdge_of_not_full ((NotFull.beginEdge settled).offersOfEdge _))
  case statusFirst =>
    refine ⟨_, _, rfl, ?_, rfl⟩
    exact congrArg (fun u => Host.Outcome.next (offersOfEdge n (Fin.last 256) u))
      (beginEdge_of_not_full (NotFull.beginEdge settled).statusOfEdge)

end Sys2Proof.Proofs
end

section
/-! # An edge taken whole (R77, R78, R82 to R85, R89, R104) -/

namespace Sys2Proof.Proofs
open Sys2Proof.Machine Sys2Proof.Claims

/-! ## What an offer makes of its slot (R82 to R85, R89) -/

theorem takesEdge_unique {n : InputNumber} {level : Bool} {a : Arming} {e e' : EdgePart} (h : TakesEdge n level a e)
    (h' : TakesEdge n level a e') : e' = e :=
  ModePart.waitEdge.inj (h'.2.1.symm.trans h.2.1)

theorem takeAtInsertion_of_ahead {m : SlotNumber} {s t : State} {after : Option Arming} (h : Leaves m s t after) :
    takeAtInsertion m t = t := if_neg (Bool.eq_false_iff.1 h.not_due)

/-- The slot after a CAPTURE is recorded on it. -/
theorem captured_slot (m : SlotNumber) (x : Option Action) (after : Option Arming) (o : Occurrence) (makesPending : Bool)
    (s : State) :
    let sl := (((s.performAction x).putArming m after).recordEvent (.slot m) o makesPending).slots[m]
    sl.arming = after ∧ sl.generation = s.slots[m].generation
      ∧ sl.report.fields = s.slots[m].report.fields.coalesce o := by
  have report := State.recordEvent_report (.slot m) o makesPending ((s.performAction x).putArming m after)
  have kept : ((s.performAction x).putArming m after).slots[m] = { s.slots[m] with arming := after } := by
    rw [State.putArming_slot, State.performAction_slots]
  obtain ⟨arming, generation⟩ := State.recordEvent_slot (.slot m) o makesPending ((s.performAction x).putArming m after) m
  rw [kept] at arming generation
  refine ⟨arming, generation, (congrArg Report.fields report).trans ?_⟩
  show (((s.performAction x).putArming m after).slots[m].report.fields).coalesce o = _
  rw [kept]

theorem edgeTaken_slot_ne {m k : SlotNumber} (hk : k ≠ m) (a : Arming) (e : EdgePart) (now : Time) (s : State) :
    (edgeTaken m a e now s).slots[k] = s.slots[k] := by
  cases h : e.delay with
  | none =>
    rw [edgeTaken_of_capture h, captureEdge_eq, recordEvent_slot_ne hk, State.putArming_slot_ne _ _ hk,
      State.performAction_slots]
  | some d =>
    rw [edgeTaken_of_delay h, startDelay_eq]
    split
    · exact State.putArming_slot_ne _ _ hk
    · rw [recordEvent_slot_ne hk, State.putArming_slot_ne _ _ hk]

/-- The slot that takes an edge is left with its deadline ahead of the edge time, if that is now (R46). -/
theorem edgeTaken_leaves {m : SlotNumber} {s : State} {n : InputNumber} {level : Bool} {a : Arming} {e : EdgePart}
    (positive : a.positive) (takes : TakesEdge n level a e) :
    ∃ after, Leaves m s (edgeTaken m a e s.time.now s) after := by
  have intervals := positive.2
  rw [takes.2.1] at intervals
  cases h : e.delay with
  | none =>
    rw [edgeTaken_of_capture h]
    exact ⟨_, { puts_event m a.action _ s _ _ with
      sound := fun b hb => waitAgain_sound (a := { a with part := .waitEdge { e with lastCapture := some s.time.now } })
        ⟨positive.1, intervals⟩ rfl hb }⟩
  | some k =>
    rw [edgeTaken_of_delay h]
    have delay : k ≠ 0 := fun zero => intervals.2 (by rw [h, zero])
    rcases startDelay_cases m a e k s.time.now s with ⟨d, later, started⟩ | ended
    · rw [started]
      refine ⟨some { a with part := .waitEdge { e with lastCapture := some s.time.now }, phase := .armed d },
        { time := rfl, list := rfl, arming := fun _ => rfl, sound := fun b hb => ?_ }⟩
      obtain rfl := Option.some.inj hb
      refine ⟨⟨positive.1, intervals⟩, rfl, fun x hx => ?_⟩
      obtain rfl := Option.some.inj hx
      exact later?_lt later delay
    · rw [ended]
      exact ⟨none, { puts_event m none none s _ _ with sound := fun b hb => nomatch hb }⟩

/-- An offer made at its edge time places no deadline that has come. -/
theorem offerEdge_of_takes {n : InputNumber} {e : EdgeUnderWay} {m : SlotNumber} {s : State} {a : Arming} {p : EdgePart}
    (now : e.time = s.time.now) (ha : s.slots[m].arming = some a) (positive : a.positive)
    (takes : TakesEdge n e.level a p) :
    offerEdge n e m s = edgeTaken m a p e.time s := by
  obtain ⟨after, leaves⟩ := edgeTaken_leaves (m := m) (s := s) positive takes
  rw [← offered_eq, offered_of_takes ha takes, now, takeAtInsertion_of_ahead leaves]

theorem offerEdge_of_passes {n : InputNumber} {e : EdgeUnderWay} {m : SlotNumber} {s : State}
    (h : ∀ a p, s.slots[m].arming = some a → ¬ TakesEdge n e.level a p) : offerEdge n e m s = s := by
  rw [← offered_eq, offered_of_passes h]

theorem edgeTaken_edgeOffered {n : InputNumber} {level : Bool} {m : SlotNumber} {s : State} {a : Arming} {e : EdgePart}
    (now : Time) (ha : s.slots[m].arming = some a) (takes : TakesEdge n level a e) :
    EdgeOffered n level now s.slots[m] (edgeTaken m a e now s).slots[m] := by
  have only {a' : Arming} {e' : EdgePart} (ha' : s.slots[m].arming = some a') (takes' : TakesEdge n level a' e') :
      a' = a ∧ e' = e := by
    obtain rfl := Option.some.inj (ha.symm.trans ha')
    exact ⟨rfl, takesEdge_unique takes takes'⟩
  cases hd : e.delay with
  | none =>
    rw [edgeTaken_of_capture hd, captureEdge_eq]
    generalize hafter : waitsAgain a { e with lastCapture := some now } now = after
    obtain ⟨arming, generation, fields⟩ := captured_slot m a.action after
      { occurs .capture a { actionFlags a s with final := decide (after = none) } s with time := now }
      (a.policy == .every || (a.policy == .final && decide (after = none))) s
    refine ⟨generation, fun passes => absurd takes (passes a e ha), fun a' e' ha' takes' => ?_⟩
    obtain ⟨rfl, rfl⟩ := only ha' takes'
    refine ⟨fun _ => ⟨arming.trans hafter.symm, ?_, ?_, ?_, ?_, fun ends => ?_⟩,
      fun k hk => (nomatch hd.symm.trans hk), fun k hk => (nomatch hd.symm.trans hk)⟩
    · rw [fields]; rfl
    · rw [fields]; rfl
    · rw [fields]; rfl
    · rw [fields]; exact toNat_saturatingSucc _
    · rw [fields, decide_eq_true (arming.symm.trans ends)]
      simp [ReportFields.coalesce, ReportFlags.union, occurs]
  | some k =>
    rw [edgeTaken_of_delay hd, startDelay_eq]
    by_cases fits : now.toNat + k.toNat < 2 ^ 64
    · rw [if_pos fits, State.putArming_slot]
      refine ⟨rfl, fun passes => absurd takes (passes a e ha), fun a' e' ha' takes' => ?_⟩
      obtain ⟨rfl, rfl⟩ := only ha' takes'
      refine ⟨fun none => (nomatch hd.symm.trans none), fun k' hk _ => ?_, fun k' hk beyond => ?_⟩
      · obtain rfl := Option.some.inj (hd.symm.trans hk)
        rfl
      · obtain rfl := Option.some.inj (hd.symm.trans hk)
        exact absurd fits (Nat.not_lt.2 beyond)
    · rw [if_neg fits]
      obtain ⟨arming, generation, fields⟩ := captured_slot m none none
        { occurs .capture a { final := true } s with time := now } (a.policy != .none) s
      refine ⟨generation, fun passes => absurd takes (passes a e ha), fun a' e' ha' takes' => ?_⟩
      obtain ⟨rfl, rfl⟩ := only ha' takes'
      refine ⟨fun none => (nomatch hd.symm.trans none), fun k' hk fits' => ?_, fun _ _ _ => ⟨arming, ?_, ?_⟩⟩
      · obtain rfl := Option.some.inj (hd.symm.trans hk)
        exact absurd fits' fits
      · exact (congrArg ReportFields.event fields).trans rfl
      · refine (congrArg (fun f : ReportFields => f.flags.final) fields).trans ?_
        simp [ReportFields.coalesce, ReportFlags.union, occurs]

/-! ## All the offers of an edge -/

/-- Each slot is offered the edge once, and stands as before when its turn comes. -/
theorem foldl_offers {n : InputNumber} {e : EdgeUnderWay} {l : List SlotNumber} (hl : l.Nodup) {s : State}
    (now : e.time = s.time.now) (hs : ∀ m ∈ l, ∀ a, s.slots[m].arming = some a → a.positive) :
    let t := l.foldl (fun t m => offerEdge n e m t) s
    (∀ m ∈ l, EdgeOffered n e.level e.time s.slots[m] t.slots[m]) ∧ ∀ k, k ∉ l → t.slots[k] = s.slots[k] := by
  induction l generalizing s with
  | nil => exact ⟨nofun, fun _ _ => rfl⟩
  | cons m l ih =>
    obtain ⟨hm, hl⟩ := List.nodup_cons.1 hl
    obtain ⟨offered, other⟩ : EdgeOffered n e.level e.time s.slots[m] (offerEdge n e m s).slots[m]
        ∧ ∀ k, k ≠ m → (offerEdge n e m s).slots[k] = s.slots[k] := by
      by_cases passes : ∀ a p, s.slots[m].arming = some a → ¬ TakesEdge n e.level a p
      · rw [offerEdge_of_passes passes]
        exact ⟨⟨rfl, fun _ => rfl, fun a p ha takes => absurd takes (passes a p ha)⟩, fun _ _ => rfl⟩
      · simp only [not_forall, not_not] at passes
        obtain ⟨a, p, ha, takes⟩ := passes
        rw [offerEdge_of_takes now ha (hs m List.mem_cons_self a ha) takes]
        exact ⟨edgeTaken_edgeOffered e.time ha takes, fun k hk => edgeTaken_slot_ne hk a p e.time s⟩
    have apart {k : SlotNumber} (hk : k ∈ l) : k ≠ m := fun h => hm (h ▸ hk)
    obtain ⟨later, rest⟩ := ih hl (s := offerEdge n e m s) (by rw [now, offerEdge_time]) fun k hk a ha =>
      hs k (List.mem_cons_of_mem m hk) a (by rwa [other k (apart hk)] at ha)
    refine ⟨fun k hk => ?_, fun k hk => ?_⟩
    · rcases List.mem_cons.1 hk with rfl | hk
      · rw [List.foldl_cons, rest k hm]
        exact offered
      · rw [List.foldl_cons, ← other k (apart hk)]
        exact later k hk
    · rw [List.mem_cons, not_or] at hk
      rw [List.foldl_cons, rest k hk.2, other k hk.1]

/-- The slots that the offers of a whole edge go through. -/
theorem offerRange_whole {e : EdgeUnderWay} (first : e.next = 0) (n : InputNumber) (s : State) :
    offerRange n e (Fin.last 256) s = (List.finRange 256).foldl (fun t m => offerEdge n e m t) s := by
  have all (m : SlotNumber) : (decide (e.next.val ≤ m.val) && decide (m.val < (Fin.last 256).val)) = true := by
    have lt := m.isLt
    simp [first, lt]
  unfold offerRange slotsWhere
  rw [List.filter_eq_self.2 fun m _ => all m]

theorem offerRange_edgeOffered {n : InputNumber} {e : EdgeUnderWay} {s : State} (first : e.next = 0)
    (now : e.time = s.time.now) (hs : IntervalsSound s) (m : SlotNumber) :
    EdgeOffered n e.level e.time s.slots[m] (offerRange n e (Fin.last 256) s).slots[m] := by
  rw [offerRange_whole first]
  exact (foldl_offers (List.nodup_finRange 256) now fun m _ a ha => hs m a ha).1 m (List.mem_finRange m)

/-- The offers of a new edge, made from a state with the slots and the time of its acceptance. -/
theorem offers_edgeOffered {n : InputNumber} {e : EdgeUnderWay} {s x : State} (slots : x.slots = s.slots)
    (time : x.time = s.time) (first : e.next = 0) (now : e.time = s.time.now) (hs : IntervalsSound s) (m : SlotNumber) :
    EdgeOffered n e.level s.time.now s.slots[m] (offerRange n e (Fin.last 256) x).slots[m] := by
  have sound : IntervalsSound x := by
    unfold IntervalsSound
    rw [slots]
    exact hs
  rw [← now, ← slots]
  exact offerRange_edgeOffered first (now.trans (congrArg TimeBase.now time.symm)) sound m

/-! ## The trip unit is handed the status (R104) -/

theorem handed_slots (n : InputNumber) (before active : Bool) (u : State) : (handed n before active u).slots = u.slots := by
  unfold handed
  split
  · rfl
  · split
    · exact State.raise_slots _ u
    · rfl

theorem handed_time (n : InputNumber) (before active : Bool) (u : State) : (handed n before active u).time = u.time := by
  unfold handed
  split
  · rfl
  · split
    · exact State.raise_time _ u
    · rfl

theorem handed_cause {n : InputNumber} {before active : Bool} (h : active ≠ before) (u : State) :
    (handed n before active u).trip.inputCauses.getLsbD n.val = active := by
  have lt := n.isLt
  rw [handed, if_neg h]
  cases active with
  | false => simp [State.dropInputCause, State.withTrip, inputBit, lt]
  | true =>
    rw [if_pos rfl, State.raise_trip]
    cases u.trip.state <;> simp [TripUnit.addCause, inputBit, lt]

theorem handed_trips {n : InputNumber} (u : State) : (handed n false true u).trip.state = .tripped := by
  show (u.raise (.input n)).trip.state = _
  rw [State.raise_trip]
  cases h : u.trip.state with
  | clear => rfl
  | tripped => exact h

theorem handed_keeps {n : InputNumber} {before active : Bool} (h : active = false ∨ before = true) (u : State) :
    (handed n before active u).trip.state = u.trip.state := by
  unfold handed
  rcases h with rfl | rfl
  · split <;> rfl
  · cases active <;> rfl

/-! ## The two parties of an edge, in either order -/

/-- What a whole edge makes of its line, of the slots and of the trip unit. -/
structure Reaches (n : InputNumber) (level active : Bool) (s t : State) : Prop where
  line : t.inputs[n] = { s.inputs[n] with qualified := some level, candidate := none, active := active }
  slots : ∀ m : SlotNumber, EdgeOffered n level s.time.now s.slots[m] t.slots[m]
  trip : ∃ u : State, u.trip = s.trip ∧ t.trip = (handed n s.inputs[n].active active u).trip

section Whole
variable {n : InputNumber} {s : State} {level : Bool}

/-- The edge that an acceptance begins. -/
def newEdge (level : Bool) (s : State) : EdgeUnderWay :=
    { level := level, time := s.time.now, next := 0, statusDue := true }

/-- The line as the acceptance leaves it, but for its edge. -/
def accepted (n : InputNumber) (level : Bool) (s : State) : InputLine :=
  { s.inputs[n] with qualified := some level, candidate := none }

theorem unfinished_offered (level : Bool) (s : State) :
    unfinished { newEdge level s with next := max (newEdge level s).next (Fin.last 256) }
      = some { newEdge level s with next := Fin.last 256 } := by
  have last : max (newEdge level s).next (Fin.last 256) = Fin.last 256 := max_eq_right (Fin.le_last _)
  rw [last]
  rfl

theorem unfinished_all (level : Bool) (s : State) :
    unfinished { newEdge level s with statusDue := false, next := max (newEdge level s).next (Fin.last 256) } = none := by
  have last : max (newEdge level s).next (Fin.last 256) = Fin.last 256 := max_eq_right (Fin.le_last _)
  rw [last]
  rfl

/-- The slots first: the offers, then the status. -/
theorem slotsFirst_eq (begun : beginEdge n s = s.putInput n { accepted n level s with edge := some (newEdge level s) }) :
    let v := offerRange n (newEdge level s) (Fin.last 256)
      (s.putInput n { accepted n level s with edge := some { newEdge level s with next := Fin.last 256 } })
    takeEdge n .slotsFirst s = handed n s.inputs[n].active (accepted n level s).atTripLevel
      (v.putInput n { accepted n level s with active := (accepted n level s).atTripLevel, edge := none }) := by
  intro v
  have line : v.inputs[n] = { accepted n level s with edge := some { newEdge level s with next := Fin.last 256 } } := by
    rw [offerRange_inputs, State.putInput_input]
  show statusOfEdge n (offersOfEdge n (Fin.last 256) (beginEdge n s)) = _
  rw [begun, offersOfEdge_putInput, unfinished_offered]
  refine (statusOfEdge_due (s := v) (e := { newEdge level s with next := Fin.last 256 }) (by rw [line]) rfl).trans ?_
  rw [line]
  rfl

/-- The status first: the status, then the offers. -/
theorem statusFirst_eq (begun : beginEdge n s = s.putInput n { accepted n level s with edge := some (newEdge level s) }) :
    let active := (accepted n level s).atTripLevel
    let w := handed n s.inputs[n].active active
      (s.putInput n { accepted n level s with active := active, edge := some { newEdge level s with statusDue := false } })
    takeEdge n .statusFirst s = offerRange n { newEdge level s with statusDue := false } (Fin.last 256)
      (w.putInput n { accepted n level s with active := active, edge := none }) := by
  intro active w
  have line : w.inputs[n] = { accepted n level s with
      active := active, edge := some { newEdge level s with statusDue := false } } := by
    show (handed ..).inputs[n] = _
    rw [handed_inputs, State.putInput_input]
  have taken : takeEdge n .statusFirst s = offersOfEdge n (Fin.last 256) w := by
    show offersOfEdge n (Fin.last 256) (statusOfEdge n (beginEdge n s)) = _
    rw [begun, statusOfEdge_putInput rfl]
    rfl
  have same : w = w.putInput n { accepted n level s with
      active := active, edge := some { newEdge level s with statusDue := false } } := by
    rw [← line, putInput_self]
  rw [taken, same]
  refine (offersOfEdge_putInput n (Fin.last 256) { accepted n level s with active := active }
    { newEdge level s with statusDue := false } w).trans ?_
  rw [unfinished_all, ← same]

theorem accepted_line (none : s.inputs[n].edge = none) (active : Bool) :
    { accepted n level s with active := active, edge := Option.none } =
      { s.inputs[n] with qualified := some level, candidate := Option.none, active := active } := by
  unfold accepted
  generalize s.inputs[n] = l at none ⊢
  cases l
  dsimp only at none
  subst none
  rfl

theorem slotsFirst_reaches (begun : beginEdge n s = s.putInput n { accepted n level s with edge := some (newEdge level s) })
    (none : s.inputs[n].edge = none) (hs : IntervalsSound s) :
    Reaches n level (accepted n level s).atTripLevel s (takeEdge n .slotsFirst s) := by
  rw [slotsFirst_eq begun]
  generalize hx : s.putInput n { accepted n level s with edge := some { newEdge level s with next := Fin.last 256 } } = x
  have slots : x.slots = s.slots := by rw [← hx]; rfl
  have time : x.time = s.time := by rw [← hx]; rfl
  have trip : x.trip = s.trip := by rw [← hx]; rfl
  have offers := offers_edgeOffered (n := n) (e := newEdge level s) slots time rfl rfl hs
  have kept := offerRange_trip n (newEdge level s) (Fin.last 256) x
  generalize offerRange n (newEdge level s) (Fin.last 256) x = v at offers kept ⊢
  refine ⟨?_, fun m => ?_, ⟨v.putInput n _, kept.trans trip, rfl⟩⟩
  · rw [handed_inputs, State.putInput_input]
    exact accepted_line none _
  · rw [handed_slots]
    exact offers m

theorem statusFirst_reaches
    (begun : beginEdge n s = s.putInput n { accepted n level s with edge := some (newEdge level s) })
    (none : s.inputs[n].edge = none) (hs : IntervalsSound s) :
    Reaches n level (accepted n level s).atTripLevel s (takeEdge n .statusFirst s) := by
  rw [statusFirst_eq begun]
  generalize hu : s.putInput n { accepted n level s with
    active := (accepted n level s).atTripLevel, edge := some { newEdge level s with statusDue := false } } = u
  have slots : u.slots = s.slots := by rw [← hu]; rfl
  have time : u.time = s.time := by rw [← hu]; rfl
  have trip : u.trip = s.trip := by rw [← hu]; rfl
  have handedSlots := (handed_slots n s.inputs[n].active (accepted n level s).atTripLevel u).trans slots
  have handedTime := (handed_time n s.inputs[n].active (accepted n level s).atTripLevel u).trans time
  refine ⟨?_, fun m => ?_, ⟨u, trip, offerRange_trip _ _ _ _⟩⟩
  · rw [offerRange_inputs, State.putInput_input]
    exact accepted_line none _
  · generalize handed n s.inputs[n].active (accepted n level s).atTripLevel u = w at handedSlots handedTime ⊢
    generalize hx : w.putInput n _ = x
    have slots : x.slots = s.slots := by rw [← hx]; exact handedSlots
    have time : x.time = s.time := by rw [← hx]; exact handedTime
    exact offers_edgeOffered (e := { newEdge level s with statusDue := false }) slots time rfl rfl hs m

end Whole

theorem atTripLevel_of_qualified {l : InputLine} {level : Bool} (h : l.qualified = some level) :
    l.atTripLevel = ((l.tripLevel == .high && level) || (l.tripLevel == .low && !level)) := by
  rw [atTripLevel_eq, h]
  cases level <;> rfl

theorem begun_of_full {s : State} {n : InputNumber} {c : Candidate} (none : s.inputs[n].edge = none)
    (hc : s.inputs[n].candidate = some c) (full : s.inputs[n].filter.toNat ≤ c.count) :
    beginEdge n s = s.putInput n { accepted n c.level s with edge := some (newEdge c.level s) } :=
  beginEdge_of_begun (.inr ⟨none, c, hc, full, rfl, rfl⟩)

theorem takeEdge_input_ne_of_whole {n k : InputNumber} {share : EdgeShare} (h : share = .slotsFirst ∨ share = .statusFirst)
    (s : State) (hk : k ≠ n) : (takeEdge n share s).inputs[k] = s.inputs[k] := by
  rcases h with rfl | rfl
  · exact takeEdge_input_ne s hk
  · rw [takeEdge, offersOfEdge_input_ne _ _ hk, statusOfEdge_input_ne _ hk, beginEdge_input_ne s hk]

theorem takeEdge_of_none {n : InputNumber} {share : EdgeShare} (h : share = .slotsFirst ∨ share = .statusFirst) {s : State}
    (none : s.inputs[n].edge = none) (same : beginEdge n s = s) : takeEdge n share s = s := by
  rcases h with rfl | rfl
  · rw [takeEdge, same, offersOfEdge_none none, statusOfEdge_none none]
  · rw [takeEdge, same, statusOfEdge_none none, offersOfEdge_none none]

theorem edgeReachesItsParties : EdgeReachesItsParties := by
  intro s n share hs none whole
  refine ⟨fun notFull => congrArg Host.Outcome.next (takeEdge_of_none whole none (beginEdge_of_not_full notFull)),
    fun c hc full => ?_⟩
  intro active
  have begun := begun_of_full none hc full
  have status : (accepted n c.level s).atTripLevel = active := atTripLevel_of_qualified rfl
  have reaches : Reaches n c.level active s (takeEdge n share s) := by
    rw [← status]
    rcases whole with rfl | rfl
    · exact slotsFirst_reaches begun none hs
    · exact statusFirst_reaches begun none hs
  obtain ⟨line, slots, u, before, after⟩ := reaches
  have still := (takeEdge_acts n share s).still
  refine ⟨takeEdge n share s, rfl, line, fun k hk => takeEdge_input_ne_of_whole whole s hk, slots, fun change => ?_,
    fun high low => ?_, fun keeps => ?_, still.time, still.groups, still.fetch, still.held, still.configurationPresent,
    still.pending, still.freeCount, still.control⟩
  · rw [after]
    exact handed_cause change u
  · rw [after, high, low]
    exact handed_trips u
  · rw [after, handed_keeps keeps, before]

/-! ## A capture (R84) -/

theorem foldl_alone {f : SlotNumber → State → State} {l : List SlotNumber} (hl : l.Nodup) {m : SlotNumber} (hm : m ∈ l)
    {s : State} (passes : ∀ k, k ≠ m → ∀ u : State, u.slots[k] = s.slots[k] → f k u = u)
    (other : ∀ k, k ≠ m → (f m s).slots[k] = s.slots[k]) : l.foldl (fun t k => f k t) s = f m s := by
  have rest {l : List SlotNumber} (h : m ∉ l) : l.foldl (fun t k => f k t) (f m s) = f m s := by
    induction l with
    | nil => rfl
    | cons k l ih =>
      have hk : k ≠ m := fun e => h (e ▸ List.mem_cons_self)
      rw [List.foldl_cons, passes k hk _ (other k hk), ih fun hm => h (List.mem_cons_of_mem k hm)]
  induction l with
  | nil => exact nomatch hm
  | cons k l ih =>
    obtain ⟨hk, hl⟩ := List.nodup_cons.1 hl
    rw [List.foldl_cons]
    by_cases here : k = m
    · subst here
      exact rest hk
    · rw [passes k here s rfl]
      exact ih hl ((List.mem_cons.1 hm).resolve_left fun e => here e.symm)

/-- An edge that one slot alone takes. -/
theorem offerRange_alone {n : InputNumber} {edge : EdgeUnderWay} {m : SlotNumber} {a : Arming} {e : EdgePart} {s : State}
    (first : edge.next = 0) (now : edge.time = s.time.now) (ha : s.slots[m].arming = some a) (positive : a.positive)
    (takes : TakesEdge n edge.level a e)
    (others : ∀ (k : SlotNumber) a' e', k ≠ m → s.slots[k].arming = some a' → ¬ TakesEdge n edge.level a' e') :
    offerRange n edge (Fin.last 256) s = edgeTaken m a e edge.time s := by
  have offer := offerEdge_of_takes now ha positive takes
  rw [offerRange_whole first, ← offer]
  refine foldl_alone (f := offerEdge n edge) (List.nodup_finRange 256) (List.mem_finRange m) (fun k hk u hu => ?_)
    fun k hk => ?_
  · exact offerEdge_of_passes fun a' e' ha' => others k a' e' hk (hu ▸ ha')
  · rw [offer]
    exact edgeTaken_slot_ne hk a e edge.time s

theorem captureEdge_elsewhere (x : Vector InputLine 8) (f : FetchUnit) (m : SlotNumber) (a : Arming) (e : EdgePart)
    (now : Time) (s : State) :
    captureEdge m a e now (elsewhere x f s) = elsewhere x f (captureEdge m a e now s) := by
  unfold captureEdge State.recordCapture
  dsimp only
  have outcome : (elsewhere x f s).actionOutcome a.action = s.actionOutcome a.action := rfl
  rw [performAction_elsewhere, outcome]
  exact recordEvent_elsewhere x f (.slot m) _ _ ((s.performAction a.action).putArming m _)

theorem putInput_eq_elsewhere (n : InputNumber) (l : InputLine) (s : State) :
    s.putInput n l = elsewhere (s.inputs.set n l) s.fetch s := rfl

theorem captureEdge_putInput (n : InputNumber) (l l' : InputLine) (m : SlotNumber) (a : Arming) (e : EdgePart)
    (now : Time) (s : State) :
    (captureEdge m a e now (s.putInput n l)).putInput n l' = captureEdge m a e now (s.putInput n l') := by
  have set : (s.inputs.set n l).set n l' = s.inputs.set n l' := Vector.set_set ..
  rw [putInput_eq_elsewhere n l s, putInput_eq_elsewhere n l' s, captureEdge_elsewhere, captureEdge_elsewhere, ← set]
  rfl

theorem capturePerformsItsAction : CapturePerformsItsAction := by
  intro s n share c m a e hs none whole hc full unchanged ha takes hd others l u after
  have begun := begun_of_full none hc full
  have status : (accepted n c.level s).atTripLevel = s.inputs[n].active :=
    (atTripLevel_of_qualified rfl).trans unchanged.symm
  have line : { accepted n c.level s with active := s.inputs[n].active, edge := Option.none } = l := accepted_line none _
  have same (v : State) : handed n s.inputs[n].active s.inputs[n].active v = v := if_pos rfl
  have captured : takeEdge n share s = captureEdge m a e s.time.now (s.putInput n l) := by
    rcases whole with rfl | rfl
    · rw [slotsFirst_eq begun, status, line, same,
        offerRange_alone (edge := newEdge c.level s) (s := s.putInput n _) rfl rfl ha (hs m a ha) takes others,
        edgeTaken_of_capture hd]
      exact captureEdge_putInput ..
    · rw [statusFirst_eq begun, status, line, same, putInput_putInput,
        offerRange_alone (edge := { newEdge c.level s with statusDue := false })
        (s := s.putInput n l) rfl rfl ha (hs m a ha)
          takes others,
        edgeTaken_of_capture hd]
      rfl
  refine congrArg Host.Outcome.next ?_
  show takeEdge n share s = _
  rw [captured, captureEdge_eq]
  rfl

/-- Settles O30: the whole edge in either order, the capture and the shares. -/
theorem edgeIsOfferedToEverySlot : Obligations.EdgeIsOfferedToEverySlot :=
  ⟨edgeReachesItsParties, capturePerformsItsAction, edgeIsTakenInShares⟩

end Sys2Proof.Proofs
end
